-- ==== Sys2Proof/Word.lean ====
section
/-! DEFINITION. The word types of the BCP: the 32-bit datapath pattern (R7 `DP_W`), the 16-bit coefficient and raw
temperature (R7 `COEF_W`, `UT_W`), and the byte of one sensor transaction (R7). -/
namespace Sys2Proof

/-- A 32-bit datapath pattern or host register word (R7, R11). -/
abbrev Word := BitVec 32

/-- A 16-bit coefficient or raw temperature pattern (R7). -/
abbrev Half := BitVec 16

/-- One byte of a sensor transaction (R48). -/
abbrev Byte := BitVec 8

end Sys2Proof
end

