-- ==== Sys2Proof/Config.lean ====
section
/-! DEFINITION. What an implementation fixes (R8, R10) and the free values of the environment (R49, R50, R119, R121).
The parameters a step reads are a structure, carried in `State.cfg` and written by no step, so that a statement about
every state is a statement about every value of every parameter, as R8 and R10 ask. -/
namespace Sys2Proof

/-- The parameters of R8 (the sensor's map and command bytes) and the two of R10 that a step reads.
`BCP_BASE`, `HOST_FLOAT` and `FT_PER_M` are arguments of the host-side functions that use them
(`Machine.hostOffset`, `Machine/HostConv.lean`). `COMP_CYCLES` and `HOST_SUBWORD` have no field: the latency of `Comp` is
any number of cycles here (R174), and a sub-word access is refused (R46). -/
structure Config where
  /-- `SENS_DEV_ADDR`, the 7-bit bus address of the one sensor (R8). -/
  sensDevAddr : BitVec 7
  /-- `SENS_REG_W`, the width of a sensor register address (R8). -/
  sensRegW : Nat
  /-- `CAL_BASE`, the address of AC1's most significant byte (R8, R51). -/
  calBase : Nat
  /-- `CTRL_REG`, the control register the start commands are written to (R8, R51). -/
  ctrlReg : Nat
  /-- `RESULT_BASE`, the result's most significant byte (R8, R51). -/
  resultBase : Nat
  /-- `CMD_TEMP`, the start temperature conversion byte (R8, R69). -/
  cmdTemp : Byte
  /-- `CMD_PRES_BASE`, the low bits of the start pressure conversion byte (R8, R70). -/
  cmdPresBase : Byte
  /-- `CLK_HZ`, the BCP clock (R10, R168). -/
  clkHz : Nat
  /-- `ADMIT_CORRUPTION`, whether the environment may upset ASTATE (R10, R153). -/
  admitCorruption : Bool
  deriving DecidableEq, Repr

/-- OPEN parameter `CLK_HZ` of the chip that `State.reset` describes (R10, D20): no value is assumed. -/
opaque Config.openClkHz : Nat

/-- OPEN parameter `ADMIT_CORRUPTION` of the chip that `State.reset` describes (R10, D19): no value is assumed. -/
opaque Config.openAdmitCorruption : Bool

/-- FREE VALUE: the transport's `ok` bit of transaction number `n`, where the environment has fixed no answer (R49). -/
opaque Config.freeOk : Nat → Bool

/-- FREE VALUE: the byte the sensor oracle returns in transaction number `n`, where the environment has fixed no
answer (R50). -/
opaque Config.freeByte : Nat → Byte

/-- FREE VALUE: the contents of `CAL_SHADOW` once a load has ended, which R40 and S5 leave unspecified and R80 discards;
selected by the number of transactions made. -/
opaque Config.freeShadow : Nat → Vector (BitVec 16) 11

/-- The two float formats `HOST_FLOAT` may name (R119). -/
inductive FloatFormat where
  | binary32
  | binary64
  deriving DecidableEq, Repr

/-- A value of a float format (R119, IEEE 754): a signed magnitude that is not negative, an infinity, or no number. -/
inductive FloatVal where
  | num (neg : Bool) (mag : Rat)
  | inf (neg : Bool)
  | nan
  deriving DecidableEq, Repr, Inhabited

/-- FREE VALUE: what the library's `pow` computes in a format, away from the one law of R119. -/
opaque Config.freePow : FloatFormat → FloatVal → FloatVal → FloatVal

end Sys2Proof
end

