-- ==== Sys2Proof/Syntax.lean ====
section
/-! DEFINITION. The instructions of the BCP: the ten host commands (R64) and the two sensor command bytes (R69, R70),
one constructor per row of the opcode table. -/
namespace Sys2Proof

/-- One row of the opcode table: HOST_CMD rows first, in opcode order (R64), then the SENS_CMD rows (R62). -/
inductive Instr where
  /-- NOP, opcode 0x0 (R140). -/
  | nop
  /-- LOAD_CAL, opcode 0x1 (R76). -/
  | loadCal
  /-- INIT_SYNC, opcode 0x2 (R84). -/
  | initSync
  /-- INIT_ASYNC, opcode 0x3 (R125). -/
  | initAsync
  /-- READ_UT, opcode 0x4 (R86). -/
  | readUt
  /-- READ_UP, opcode 0x5 (R89). -/
  | readUp
  /-- COMPENSATE, opcode 0x6 (R96). -/
  | compensate
  /-- SET_OSS, opcode 0x7, with the oversampling level of bits 5:4 (R65, R137). -/
  | setOss (o : BitVec 2)
  /-- SET_CB, opcode 0x8, with the channel mask of bits 8:6 (R66, R138). -/
  | setCb (m : BitVec 3)
  /-- STEP, opcode 0x9: the software end-of-conversion event (R139). -/
  | step
  /-- The start temperature conversion byte `CMD_TEMP` (R69). -/
  | cmdTemp
  /-- The start pressure conversion byte `CMD_PRES(o)`, with the oversampling level in bits 7:6 (R70). -/
  | cmdPres (o : BitVec 2)
  deriving DecidableEq, Repr

end Sys2Proof
end

