-- ==== Sys2Proof/WellFormed.lean ====
section
/-! DEFINITION. What is well formed: a configuration (R70) and an instruction under a configuration. The operand ranges
of R65, R66 and R70 are the operands' types, so no operand is out of range. -/
namespace Sys2Proof

/-- R70: a `CMD_PRES_BASE` with bits 7:6 other than 00 is refused as a configuration, because the oversampling level
could not be recovered from the byte. -/
def Config.wf (cfg : Config) : Bool := cfg.cmdPresBase.extractLsb' 6 2 == 0#2

/-- An instruction is well formed under a configuration if its encoding is that instruction's alone. Every HOST_CMD is
(R68). A pressure start command is, if the configuration is not refused (R70) and its six low bits tell it from
`CMD_TEMP`. -/
def Instr.wf (cfg : Config) : Instr → Bool
  | .nop | .loadCal | .initSync | .initAsync | .readUt | .readUp | .compensate => true
  | .setOss _ | .setCb _ | .step | .cmdTemp => true
  | .cmdPres _ => cfg.wf && (cfg.cmdTemp.extractLsb' 0 6 != cfg.cmdPresBase.extractLsb' 0 6)

end Sys2Proof
end

