-- ==== Sys2Proof/Decode.lean ====
section
/-! DEFINITION. The decoder of command words and sensor command bytes (R63 to R71), total on every word and rejecting by
name, and after it the encoder, written from the same rules. -/
namespace Sys2Proof

/-- The parameters of the chip `State.reset` describes: the defaults of R8, and the two open parameters of R10 that a
step reads. -/
def Config.default : Config where
  sensDevAddr := 0x77#7
  sensRegW := 8
  calBase := 0xAA
  ctrlReg := 0xF4
  resultBase := 0xF6
  cmdTemp := 0x2E#8
  cmdPresBase := 0x34#8
  clkHz := Config.openClkHz
  admitCorruption := Config.openAdmitCorruption

/-- Why a word or byte is no instruction: the four cases of R67, and a byte that is neither start command. -/
inductive DecodeError where
  /-- R67 (a): OPC in 0xA..0xF. -/
  | reservedOpc
  /-- R67 (b): RSV is not zero. -/
  | rsvNonzero
  /-- R67 (c): OSSF is not 00 and OPC is not SET_OSS. -/
  | ossfUnused
  /-- R67 (d): CBM is not 000 and OPC is not SET_CB. -/
  | cbmUnused
  /-- The byte is neither `CMD_TEMP` nor a `CMD_PRES(o)` (R69, R70). -/
  | notStartCommand
  deriving DecidableEq, Repr

/-- An encoded instruction: one 32-bit command word or one sensor command byte (R62, R71). -/
inductive CmdWord where
  | host (w : BitVec 32)
  | sens (b : Byte)
  deriving DecidableEq, Repr

/-- The OPC field, bits 3:0 (R63). -/
def opcField (w : BitVec 32) : BitVec 4 := w.extractLsb' 0 4

/-- The OSSF field, bits 5:4 (R63). -/
def ossField (w : BitVec 32) : BitVec 2 := w.extractLsb' 4 2

/-- The CBM field, bits 8:6 (R63). -/
def cbmField (w : BitVec 32) : BitVec 3 := w.extractLsb' 6 3

/-- The RSV field, bits 31:9 (R63). -/
def rsvField (w : BitVec 32) : BitVec 23 := w.extractLsb' 9 23

/-- R67, R68: the operation a command word names, or why it is ILLEGAL. -/
def decodeHost (w : BitVec 32) : Except DecodeError Instr :=
  if 0xA#4 ≤ opcField w then .error .reservedOpc
  else if rsvField w ≠ 0#23 then .error .rsvNonzero
  else if ossField w ≠ 0#2 ∧ opcField w ≠ 0x7#4 then .error .ossfUnused
  else if cbmField w ≠ 0#3 ∧ opcField w ≠ 0x8#4 then .error .cbmUnused
  else match (opcField w).toNat with
    | 0x0 => .ok .nop
    | 0x1 => .ok .loadCal
    | 0x2 => .ok .initSync
    | 0x3 => .ok .initAsync
    | 0x4 => .ok .readUt
    | 0x5 => .ok .readUp
    | 0x6 => .ok .compensate
    | 0x7 => .ok (.setOss (ossField w))
    | 0x8 => .ok (.setCb (cbmField w))
    | 0x9 => .ok .step
    | _ => .error .reservedOpc

/-- R69, R70: the start command a byte written to `CTRL_REG` is. -/
def decodeSens (cfg : Config) (b : Byte) : Except DecodeError Instr :=
  if b = cfg.cmdTemp then .ok .cmdTemp
  else if b.extractLsb' 0 6 = cfg.cmdPresBase.extractLsb' 0 6 then .ok (.cmdPres (b.extractLsb' 6 2))
  else .error .notStartCommand

/-- The decoder of both formats (R62); the format is known from where the word is written (R71). -/
def decode (cfg : Config) : CmdWord → Except DecodeError Instr
  | .host w => decodeHost w
  | .sens b => decodeSens cfg b

/-- R70: `CMD_PRES(o)`, the base byte with the oversampling level in bits 7:6. -/
def presByte (cfg : Config) (o : BitVec 2) : Byte := cfg.cmdPresBase ||| (o.setWidth 8 <<< 6)

/-- The encoder: R64 with the operand placements of R137 and R138, R69 and R70. -/
def encode (cfg : Config) : Instr → CmdWord
  | .nop => .host 0x00000000#32
  | .loadCal => .host 0x00000001#32
  | .initSync => .host 0x00000002#32
  | .initAsync => .host 0x00000003#32
  | .readUt => .host 0x00000004#32
  | .readUp => .host 0x00000005#32
  | .compensate => .host 0x00000006#32
  | .setOss o => .host (0x00000007#32 ||| (o.setWidth 32 <<< 4))
  | .setCb m => .host (0x00000008#32 ||| (m.setWidth 32 <<< 6))
  | .step => .host 0x00000009#32
  | .cmdTemp => .sens cfg.cmdTemp
  | .cmdPres o => .sens (presByte cfg o)

/-- The instruction the decoder reads from `w` as the opcode table numbers its bits: a 32-bit row is a command word
(HOST_CMD), an 8-bit row a sensor command byte (SENS_CMD) under the default parameters (R62, R71). -/
def decodeTableWord (nbits w : Nat) : Option Instr :=
  if nbits = 32 then (decodeHost (BitVec.ofNat 32 w)).toOption
  else if nbits = 8 then (decodeSens Config.default (BitVec.ofNat 8 w)).toOption
  else none

end Sys2Proof
end

