-- ==== Sys2Proof/Machine/State.lean ====
section
/-! DEFINITION. The state of the BCP as plain data (R17 to R43), with the environment's choices beside it as data: the
inputs of the coming cycles, the answers of the sensor bus, and the histories. State right after reset (R43, R164). -/
namespace Sys2Proof.Machine

/-- The sequencer position SEQ (R18), in the coarseness a program can observe: BUSY, and the start command at the bus
port. BUSY (R21) is `seq ≠ idle`. -/
inductive Seq where
  /-- No operation runs: BUSY = 0. -/
  | idle
  /-- An operation runs: BUSY = 1. Its place in its pseudocode is the meaning's own control point. -/
  | running
  /-- An operation runs and the start command byte `b` stands at the bus port, to be written to `CTRL_REG` next. -/
  | issue (b : Byte)
  deriving DecidableEq, Repr

/-- The kinds of a diagnostic event (R152). -/
inductive DiagKind where
  | invalidState
  | commError
  deriving DecidableEq, Repr

/-- One event of the BCP's event history (R14, R48, R151, R152, R153). -/
inductive Event where
  /-- `BusRd(r, ok, b)` at device `dev`: `some b` is ok = 1 with byte b, `none` is ok = 0 (R48, R49). -/
  | busRd (dev : BitVec 7) (r : Nat) (answer : Option Byte)
  /-- `BusWr(r, b, ok)` at device `dev` (R48, R49). -/
  | busWr (dev : BitVec 7) (r : Nat) (b : Byte) (ok : Bool)
  /-- `Wait(us)` (R168). -/
  | wait (us : Nat)
  /-- A pulse of channel TEMP: the raw code and T (R151). -/
  | temp (raw : Half) (t : Word)
  /-- A pulse of channel PRESS: the raw code and p (R151). -/
  | press (raw : Word) (p : Word)
  /-- A pulse of channel ALT: p (R151). -/
  | alt (p : Word)
  /-- `Diag(kind, value)`, a pulse of `diag_valid` (R152). -/
  | diag (kind : DiagKind) (value : Byte)
  /-- `Corrupt(v)`: the environment upset ASTATE (R153). -/
  | corrupt (v : BitVec 2)
  deriving DecidableEq, Repr

/-- What the host does at the register window in one cycle (R45, R46): `off` is the offset in the 256-byte window,
`bytes` the width of the access. -/
inductive HostAccess where
  | idle
  | read (off : BitVec 8) (bytes : Nat)
  | write (off : BitVec 8) (bytes : Nat) (w : Word)
  deriving DecidableEq, Repr

/-- The inputs of one BCP clock cycle: whether reset acts in it (`rst` is asserted, or this is the cycle of its release,
R164), the level of `eoc`, the host's access, an upset of ASTATE, and
whether the sequencer's pending event completes in this cycle (`seqDone`), and how many of its events complete before this
cycle with no cycle in between (`atOnce`): no rule gives an operation a length in cycles (R174, N2), so the environment says
how many pass, none among them. -/
structure Cycle where
  rst : Bool
  eoc : Bool
  host : HostAccess
  corrupt : Option (BitVec 2)
  seqDone : Bool
  atOnce : Nat
  deriving DecidableEq, Repr

/-- An answer the environment has fixed for the coming bus transaction (R49, R50; the ENV lines of R72). -/
inductive Answer where
  /-- The next transaction is answered, if it reads register `r`, with ok = 1 and byte `b`. -/
  | data (r : Nat) (b : Byte)
  /-- The next transaction is answered, if it is a write, with ok = 1. -/
  | ack
  /-- The next transaction is answered with ok = 0. -/
  | fail
  deriving DecidableEq, Repr

/-- The whole machine. Every register stands under its rule of spec/10_state.md. -/
structure State where
  /-- The configuration (R8, R10); no step writes it. -/
  cfg : Config
  /-- `CAL[0..10]` (R19). -/
  cal : Vector Half 11
  /-- `CAL_VALID` (R20). -/
  calValid : Bool
  /-- `CAL_SHADOW[0..10]` (R40). -/
  calShadow : Vector Half 11
  /-- `SEQ`, and through it `BUSY` (R18, R21). -/
  seq : Seq
  /-- The wait down-counter (R158, R168). -/
  waitCnt : Nat
  /-- `MODE`: 00 UNINIT, 01 SYNC, 10 ASYNC (R22). -/
  mode : BitVec 2
  /-- `OSS` (R23). -/
  oss : BitVec 2
  /-- `ASTATE` (R24). -/
  astate : BitVec 2
  /-- `UT_BUF` (R25). -/
  utBuf : Half
  /-- `EOC_PREV` (R26). -/
  eocPrev : Bool
  /-- `EOC_PEND` (R27). -/
  eocPend : Bool
  /-- `CB_EN`: bit 0 TEMP, bit 1 PRESS, bit 2 ALT (R28). -/
  cbEn : BitVec 3
  /-- `UT_REG` (R29). -/
  utReg : Half
  /-- `UP_REG` (R30). -/
  upReg : Word
  /-- `T_REG` (R31). -/
  tReg : Word
  /-- `P_REG` (R32). -/
  pReg : Word
  /-- `RES_VALID` (R33). -/
  resValid : Bool
  /-- `LAST_RESULT` (R34). -/
  lastResult : BitVec 4
  /-- `ERR` (R35). -/
  err : BitVec 8
  /-- The event history, oldest first (R14). -/
  history : List Event
  /-- MODEL'S OWN: what the host's reads have returned, oldest first, each with its offset (R47, R59). -/
  reads : List (BitVec 8 × Word)
  /-- MODEL'S OWN: the inputs of the coming cycles, next first; after the last one the environment is quiet. -/
  inputs : List Cycle
  /-- MODEL'S OWN: the answers the environment has fixed for the coming transactions, next first. -/
  answers : List Answer
  /-- MODEL'S OWN: the number of transactions made; it selects the free value of the next one (R49, R50). -/
  draws : Nat
  deriving DecidableEq, Repr

/-- The reasons the machine stops with a fault: none. Every error of the BCP is recorded and the machine goes on
(R144, R155), so this type has no constructor. -/
inductive Fault where
  deriving DecidableEq, Repr

/-- The cases the model gives no meaning. -/
inductive Refusal where
  /-- Raised by an arm of `exec` that has no meaning yet; safe (the model stops). -/
  | notModelled (mnemonic : String)
  /-- Raised by `step` for a host access that is not an aligned 32-bit word, between two operations or in a cycle of a
  running one (R46, S4); safe (the model stops). -/
  | hostAccess
  /-- Raised by `step` under a configuration that R70 refuses (S9); safe (the model stops). -/
  | configuration
  /-- Raised by `step` where the byte at the bus port is no start command (R69, R70); safe (the model stops). -/
  | startCommand
  deriving DecidableEq, Repr

/-- The machine right after reset (R43, R164), idle, with nothing in the histories and a quiet environment. -/
def State.reset : State where
  cfg := Config.default
  cal := Vector.replicate 11 0#16
  calValid := false
  calShadow := Vector.replicate 11 0#16
  seq := .idle
  waitCnt := 0
  mode := 0#2
  oss := 1#2
  astate := 0#2
  utBuf := 0#16
  eocPrev := false
  eocPend := false
  cbEn := 0#3
  utReg := 0#16
  upReg := 0#32
  tReg := 0#32
  pReg := 0#32
  resValid := false
  lastResult := 0#4
  err := 0#8
  history := []
  reads := []
  inputs := []
  answers := []
  draws := 0

end Sys2Proof.Machine
end

