-- ==== Sys2Proof/Machine/Operands.lean ====
section
/-! DEFINITION. The datapath operators (R12), and how each operand is formed: coefficients, raw codes, sensor register
addresses, waits (R51 to R53, R78, R87, R90 to R92, R168). -/
namespace Sys2Proof.Machine

/-! ### The datapath operators (R12) -/

/-- R12 `+32`: the sum modulo 2^32. -/
def add32 (a b : Word) : Word := BitVec.ofNat 32 (a.toNat + b.toNat)

/-- R12 `-32`: the difference modulo 2^32. -/
def sub32 (a b : Word) : Word := BitVec.ofInt 32 (a.toNat - b.toNat)

/-- R12 `*32`: the product modulo 2^32. -/
def mul32 (a b : Word) : Word := BitVec.ofNat 32 (a.toNat * b.toNat)

/-- R12 `asr32`: the pattern of floor(s32(a) / 2^n). -/
def asr32 (a : Word) (n : Nat) : Word := BitVec.ofInt 32 (a.toInt.fdiv (2 ^ n))

/-- R12 `lsr32`: u32(a) div 2^n. -/
def lsr32 (a : Word) (n : Nat) : Word := BitVec.ofNat 32 (a.toNat / 2 ^ n)

/-- R12 `shl32`: u32(a) × 2^n modulo 2^32. -/
def shl32 (a : Word) (n : Nat) : Word := BitVec.ofNat 32 (a.toNat * 2 ^ n)

/-- R12 `sdiv32`: the pattern of the quotient of the signed readings, rounded toward zero. Used for `b ≠ 0` only. -/
def sdiv32 (a b : Word) : Word := BitVec.ofInt 32 (a.toInt.tdiv b.toInt)

/-- R12 `udiv32`: the quotient of the unsigned readings. Used for `b ≠ 0` only. -/
def udiv32 (a b : Word) : Word := BitVec.ofNat 32 (a.toNat / b.toNat)

/-- R12 `ult32`: the comparison of the unsigned readings. -/
def ult32 (a b : Word) : Bool := decide (a.toNat < b.toNat)

/-! ### Modes and async states (R22, R24) -/

/-- MODE = UNINIT (R22). -/
def modeUninit : BitVec 2 := 0#2
/-- MODE = SYNC (R22). -/
def modeSync : BitVec 2 := 1#2
/-- MODE = ASYNC (R22). -/
def modeAsync : BitVec 2 := 2#2
/-- ASTATE = AwaitingTemperature (R24). -/
def awaitingTemperature : BitVec 2 := 0#2
/-- ASTATE = AwaitingPressure (R24). -/
def awaitingPressure : BitVec 2 := 1#2

/-! ### Sensor register addresses (R48, R51), modulo the address width -/

/-- An address of the sensor's `SENS_REG_W`-bit register space (R48). -/
def sensReg (cfg : Config) (a : Nat) : Nat := a % 2 ^ cfg.sensRegW

/-- The register of coefficient k's most significant byte (R51). -/
def calMsbReg (cfg : Config) (k : Nat) : Nat := sensReg cfg (cfg.calBase + 2 * k)

/-- The register of coefficient k's least significant byte (R51). -/
def calLsbReg (cfg : Config) (k : Nat) : Nat := sensReg cfg (cfg.calBase + 2 * k + 1)

/-- The control register (R51). -/
def controlReg (cfg : Config) : Nat := sensReg cfg cfg.ctrlReg

/-- Result register j: 0 MSB, 1 LSB, 2 XLSB (R51, R53). -/
def resultReg (cfg : Config) (j : Nat) : Nat := sensReg cfg (cfg.resultBase + j)

/-! ### Multi-byte values (R52, R53, R87, R90, R91) -/

/-- R52, R87: a coefficient or raw temperature, most significant byte high. -/
def half (hi lo : Byte) : Half := hi ++ lo

/-- R90: the raw 24-bit pressure code. -/
def raw24 (msb lsb xlsb : Byte) : BitVec 24 := (msb ++ lsb : BitVec 16) ++ xlsb

/-- R91: the raw pressure, the 24-bit code shifted right by 8 − o. -/
def rawPressure (msb lsb xlsb : Byte) (o : BitVec 2) : Word :=
  lsr32 ((raw24 msb lsb xlsb).setWidth 32) (8 - o.toNat)

/-- R78: a coefficient as the datapath reads it, sign-extended. -/
def coef (cal : Vector Half 11) (k : Fin 11) : Word := cal[k].signExtend 32

/-! ### Waits (R88, R92, R168) -/

/-- R88: the temperature conversion wait in µs. -/
def tempWaitUs : Nat := 4500

/-- R92: the pressure conversion wait in µs, by oversampling level. -/
def presWaitUs (o : BitVec 2) : Nat :=
  match o.toNat with
  | 0 => 4500
  | 1 => 7500
  | 2 => 13500
  | _ => 25500

/-- R168: the wait counter's load value, ceil(us × CLK_HZ / 10^6). -/
def waitTicks (cfg : Config) (us : Nat) : Nat := (us * cfg.clkHz + 999999) / 1000000

end Sys2Proof.Machine
end

