-- ==== Sys2Proof/Machine/Flags.lean ====
section
/-! DEFINITION. Status and error bookkeeping: the error codes and their ERR bits (R34, R35, R143), and the STATUS word
(R36). -/
namespace Sys2Proof.Machine

/-- The errors a host command can end with (R34, R143). -/
inductive Err where
  | comm
  | mode
  | notInit
  | div0
  | illegal
  | ossLocked
  deriving DecidableEq, Repr

/-- The LAST_RESULT code of success (R34). -/
def codeOk : BitVec 4 := 0#4

/-- The LAST_RESULT code of an error (R34). -/
def errCode : Err → BitVec 4
  | .comm => 1#4
  | .mode => 2#4
  | .notInit => 3#4
  | .div0 => 4#4
  | .illegal => 5#4
  | .ossLocked => 6#4

/-- The ERR bit of an error, as a mask (R35, R143). -/
def errMask : Err → BitVec 8
  | .comm => 0x01#8
  | .mode => 0x02#8
  | .notInit => 0x04#8
  | .div0 => 0x08#8
  | .illegal => 0x10#8
  | .ossLocked => 0x20#8

/-- ERR bit 6, BUSY (R35, R145). -/
def busyMask : BitVec 8 := 0x40#8

/-- ERR bit 7, STATE (R35, R130). -/
def stateMask : BitVec 8 := 0x80#8

/-- Set sticky ERR bits (R35, R156: an error changes only its own bit). -/
def setErr (mask : BitVec 8) (s : State) : State := { s with err := s.err ||| mask }

/-- R37: a host write of `w` to ERR clears the bits written as 1 in 7:0. -/
def clearErr (w : Word) (s : State) : State := { s with err := s.err &&& ~~~(w.setWidth 8) }

/-- BUSY (R21): 1 while an operation runs. -/
def busy (s : State) : Bool := s.seq != .idle

/-- R36: the packed STATUS word. -/
def statusWord (s : State) : Word :=
  (0#15 ++ s.cbEn ++ s.oss ++ s.lastResult ++ BitVec.ofBool s.resValid ++ BitVec.ofBool s.eocPend
    ++ s.astate ++ s.mode ++ BitVec.ofBool s.calValid ++ BitVec.ofBool (busy s) : BitVec 32)

end Sys2Proof.Machine
end

