-- ==== Sys2Proof/Machine/Ops.lean ====
section
/-! DEFINITION. The shared operations: the event history, ending an operation (R144), reset (R164), the edge detector
(R149), the register window (R45 to R47, R55, R56), the cycles that pass inside an operation (R59), the bus primitives
(R48 to R50), the wait (R168) and the result channels (R151). -/
namespace Sys2Proof.Machine

/-- Append one event to the history (R14). -/
def pushEvent (e : Event) (s : State) : State := { s with history := s.history ++ [e] }

/-! ### Ending an operation, and reset -/

/-- R144 `finish OK`. -/
def finishOk (s : State) : State := { s with lastResult := codeOk, seq := .idle }

/-- R144 `raise E`, the BCP's one way of reporting an error of a host command (R155: no trap, no saved context):
the code, the sticky bit, BUSY cleared. -/
def raise (e : Err) (s : State) : State :=
  { s with lastResult := errCode e, err := s.err ||| errMask e, seq := .idle }

/-- R164: every piece of BCP state takes its reset value. The configuration, the histories and the environment's own
choices are no BCP state and stay. No event is recorded. -/
def doReset (s : State) : State :=
  { State.reset with
    cfg := s.cfg, history := s.history, reads := s.reads, inputs := s.inputs, answers := s.answers, draws := s.draws }

/-- How a stretch of an operation ends: it goes on with a value, it ends with an error (R144, R146), reset abandoned
it (R164), or a cycle of it holds a host access that R46 refuses. -/
inductive Flow (α : Type) where
  | val (a : α) (s : State)
  | err (e : Err) (s : State)
  | rst (s : State)
  | ref (s : State)

/-- Go on with the next statement; an error, a reset or a refusal ends the operation there (R144, R155, R164, R46). -/
def Flow.bind {α β : Type} (x : Flow α) (f : α → State → Flow β) : Flow β :=
  match x with
  | .val a s => f a s
  | .err e s => .err e s
  | .rst s => .rst s
  | .ref s => .ref s

/-- Go on from an error with `f`, where an operation recovers from it (R130, R131). -/
def Flow.recover (x : Flow Unit) (f : State → Flow Unit) : Flow Unit :=
  match x with
  | .val _ s => .val () s
  | .err _ s => f s
  | .rst s => .rst s
  | .ref s => .ref s

/-- The end of a host command's operation (R144). After a reset nothing of the operation happens (R164). -/
def conclude : Flow Unit → State
  | .val _ s => finishOk s
  | .err e s => raise e s
  | .rst s => s
  | .ref s => s

/-- The start of an operation that issues bus events or uses the datapath: BUSY becomes 1 (R21). -/
def begin (s : State) : State := { s with seq := .running }

/-! ### The end-of-conversion input (R149) -/

/-- R149: one sample of `eoc`. -/
def sampleEoc (e : Bool) (s : State) : State :=
  { s with eocPend := s.eocPend || (e && !s.eocPrev && s.mode == modeAsync), eocPrev := e }

/-! ### The register window (R45 to R47) -/

/-- R45: the offset in the window that a platform address names, for a window at `BCP_BASE`; none outside it. -/
def hostOffset (bcpBase addr : Nat) : Option (BitVec 8) :=
  if bcpBase ≤ addr ∧ addr < bcpBase + 256 then some (BitVec.ofNat 8 (addr - bcpBase)) else none

/-- R46: an access is admitted only if it is 4 bytes wide and its offset is a multiple of 4. -/
def HostAccess.admitted : HostAccess → Bool
  | .idle => true
  | .read off bytes => bytes == 4 && off.toNat % 4 == 0
  | .write off bytes _ => bytes == 4 && off.toNat % 4 == 0

/-- Every host access in the coming cycles is admitted. -/
def allAdmitted (s : State) : Bool := s.inputs.all fun c => c.host.admitted

/-- The outcome of an operation that started at `s`, ended by `close`: refused exactly where a cycle of the operation holds
a host access that R46 refuses, which no cycle does if all to come are admitted. -/
def outcome (close : Flow Unit → State) (s : State) (x : Flow Unit) : Host.Outcome State Fault Refusal :=
  if allAdmitted s then .next (close x)
  else match x with
    | .ref _ => .refused .hostAccess
    | .val _ _ | .err _ _ | .rst _ => .next (close x)

/-- The offset of CMD (R38). -/
def offCmd : BitVec 8 := 0x00#8

/-- The command word a host access delivers, if it is a CMD write (R38). -/
def HostAccess.command : HostAccess → Option Word
  | .write off _ w => if off = offCmd then some w else none
  | .idle | .read _ _ => none

/-- R39, R47: the read value of `CAL_k` at 0x20 + 4k, and 0 at the reserved offsets 0x1C and 0x4C and above. -/
def readCal (cal : Vector Half 11) (off : Nat) : Word :=
  if off < 0x20 then 0#32
  else match cal[(off - 0x20) / 4]? with
    | some c => c.setWidth 32
    | none => 0#32

/-- R47, R55: the value a host read of an offset returns. -/
def readReg (off : BitVec 8) (s : State) : Word :=
  match off.toNat with
  | 0x00 => 0#32
  | 0x04 => statusWord s
  | 0x08 => s.err.setWidth 32
  | 0x0C => s.utReg.setWidth 32
  | 0x10 => s.upReg
  | 0x14 => s.tReg
  | 0x18 => s.pReg
  | n => readCal s.cal n

/-- R145: a CMD, UT_REG or UP_REG write while BUSY = 1 is discarded and sets ERR[6]. -/
def rejectBusy (s : State) : State := setErr busyMask s

/-- R37, R55, R141, R145: a host write to any offset, but for the command a CMD write starts while BUSY = 0 (R68). -/
def writeReg (off : BitVec 8) (w : Word) (s : State) : State :=
  match off.toNat with
  | 0x00 => if busy s then rejectBusy s else s
  | 0x08 => clearErr w s
  | 0x0C => if busy s then rejectBusy s else { s with utReg := w.setWidth 16 }
  | 0x10 => if busy s then rejectBusy s else { s with upReg := w }
  | _ => s

/-- The effect of a host access (R56): a read only returns its value. -/
def hostAccess (a : HostAccess) (s : State) : State :=
  match a with
  | .idle => s
  | .read off _ => { s with reads := s.reads ++ [(off, readReg off s)] }
  | .write off _ w => writeReg off w s

/-! ### The cycles inside an operation (R57, R59) -/

/-- One cycle in which an operation runs and reset is not asserted: the edge detector runs (R150) and the host's access
takes effect (R59). ASTATE is not upset while BUSY = 1 (R153). -/
def busyTick (c : Cycle) (s : State) : State := hostAccess c.host (sampleEoc c.eoc s)

/-- The cycles up to and with the one in which the sequencer's pending event completes: none if it completes at once.
Reset abandons the operation (R164), and a host access that R46 refuses ends it. -/
def gapFrom : List Cycle → State → Flow Unit
  | [], s => .val () { s with inputs := [] }
  | c :: cs, s =>
    if 0 < c.atOnce then .val () { s with inputs := { c with atOnce := c.atOnce - 1 } :: cs }
    else if c.rst then .rst (doReset { s with inputs := cs })
    else if !c.host.admitted then .ref { s with inputs := c :: cs }
    else if c.seqDone then .val () (busyTick c { s with inputs := cs })
    else gapFrom cs (busyTick c { s with inputs := cs })

/-- The cycles before the sequencer's next event: any number of them, none among them, with host accesses between any two
events (R59). The register assignments that follow an event are made with it (DEDUCED, log 3). -/
def gap (s : State) : Flow Unit := gapFrom s.inputs s

/-! ### The bus primitives (R48 to R50) -/

/-- The environment's answer to a read of register `r`: the one it has fixed, or a free draw (R49, R50). -/
def drawRead (r : Nat) (s : State) : Option Byte × List Answer :=
  let free := (if Config.freeOk s.draws then some (Config.freeByte s.draws) else none, s.answers)
  match s.answers with
  | .data r' b :: rest => if r' = r then (some b, rest) else free
  | .fail :: rest => (none, rest)
  | .ack :: _ | [] => free

/-- The transport's answer to a write: the one it has fixed, or a free draw (R49). -/
def drawWrite (s : State) : Bool × List Answer :=
  match s.answers with
  | .ack :: rest => (true, rest)
  | .fail :: rest => (false, rest)
  | .data _ _ :: _ | [] => (Config.freeOk s.draws, s.answers)

/-- R48 `BusRead(r)`: one transaction, one event. -/
def busRead (r : Nat) (s : State) : Option Byte × State :=
  let d := drawRead r s
  (d.1, { s with
    history := s.history ++ [.busRd s.cfg.sensDevAddr r d.1], answers := d.2, draws := s.draws + 1 })

/-- R48 `BusWrite(r, b)`: one transaction, one event. -/
def busWrite (r : Nat) (b : Byte) (s : State) : Bool × State :=
  let d := drawWrite s
  (d.1, { s with
    history := s.history ++ [.busWr s.cfg.sensDevAddr r b d.1], answers := d.2, draws := s.draws + 1 })

/-- `(ok, b) <- BusRead(r)` inside an operation, ending it with COMM if ok = 0 (R146). -/
def readByte (r : Nat) (s : State) : Flow Byte :=
  (gap s).bind fun _ s1 =>
    match busRead r s1 with
    | (some b, s2) => .val b s2
    | (none, s2) => .err .comm s2

/-- A start command byte written to `CTRL_REG` (R69, R70): the whole effect of a SENS_CMD on the BCP is this one
transaction; what it starts is inside the sensor (R50). -/
def writeStart (b : Byte) (s : State) : Bool × State := busWrite (controlReg s.cfg) b s

/-- `ok <- BusWrite(CTRL_REG, b)` inside an operation, ending it with COMM if ok = 0 (R146). -/
def startConversion (b : Byte) (s : State) : Flow Unit :=
  (gap { s with seq := .issue b }).bind fun _ s1 =>
    match writeStart b s1 with
    | (true, s2) => .val () { s2 with seq := .running }
    | (false, s2) => .err .comm { s2 with seq := .running }

/-! ### The wait (R168) -/

/-- The wait counter, loaded with the given count, goes down by one a cycle over the given cycles, until it is zero. -/
def countDown : List Cycle → Nat → State → Flow Unit
  | [], _, s => .val () { s with inputs := [], waitCnt := 0 }
  | c :: cs, 0, s => .val () { s with inputs := c :: cs, waitCnt := 0 }
  | c :: cs, n + 1, s =>
    if c.rst then .rst (doReset { s with inputs := cs })
    else if !c.host.admitted then .ref { s with inputs := c :: cs }
    else countDown cs n (busyTick c { s with inputs := cs, waitCnt := n })

/-- The Wait event and the counter's cycles after it (R168). DESIGN CHOICE (log 8): the event is recorded when the counter
is loaded, so a wait that reset ends is in the history. -/
def runWait (us : Nat) (s : State) : Flow Unit :=
  countDown s.inputs (waitTicks s.cfg us) (pushEvent (.wait us) s)

/-- R168 `Wait(us)`, after the cycles before it. -/
def waitFor (us : Nat) (s : State) : Flow Unit := (gap s).bind fun _ s1 => runWait us s1

/-! ### Result channels and diagnostics (R151, R152) -/

/-- One event of the history, after the cycles before it (R14). -/
def emit (e : Event) (s : State) : Flow Unit := (gap s).bind fun _ s1 => .val () (pushEvent e s1)

/-- One pulse of a channel whose enable bit is `on`; a channel that is not enabled is skipped with no event (R129). -/
def emitIf (on : Bool) (e : Event) (s : State) : Flow Unit := if on then emit e s else .val () s

/-- R152 `Diag(kind, value)`. -/
def diag (kind : DiagKind) (value : Byte) (s : State) : Flow Unit := emit (.diag kind value) s

end Sys2Proof.Machine
end

