-- ==== Sys2Proof/Machine/Calibration.lean ====
section
/-! DEFINITION. The calibration coefficient loader: the shared procedure Load() (R77, R79, R80) and LOAD_CAL (R76). -/
namespace Sys2Proof.Machine

/-- The coefficient indices in load order (R75). -/
def coefOrder : List (Fin 11) := [0, 1, 2, 3, 4, 5, 6, 7, 8, 9, 10]

/-- One coefficient of the load: MSB, then LSB, then the shadow register (R52, R77). -/
def loadCoef (k : Fin 11) (s : State) : Flow Unit :=
  (readByte (calMsbReg s.cfg k) s).bind fun hi s1 =>
    (readByte (calLsbReg s1.cfg k) s1).bind fun lo s2 =>
      .val () { s2 with calShadow := s2.calShadow.set k (half hi lo) }

/-- The coefficients `ks` in order; a failed read ends the load (R80). -/
def loadCoefs : List (Fin 11) → State → Flow Unit
  | [], s => .val () s
  | k :: ks, s => (loadCoef k s).bind fun _ s1 => loadCoefs ks s1

/-- The commit: one atomic step, then CAL_VALID (R77). -/
def commitCal (s : State) : State := { s with cal := s.calShadow, calValid := true }

/-- The shadow registers once a load has ended: a FREE VALUE (R40, R80, S5; log 7). -/
def dropShadow (s : State) : State := { s with calShadow := Config.freeShadow s.draws }

/-- The end of a load's reads: the commit, or the error with nothing committed (R77, R80); the shadow is discarded. -/
def endLoad : Flow Unit → Flow Unit
  | .val _ s => .val () (dropShadow (commitCal s))
  | .err e s => .err e (dropShadow s)
  | .rst s => .rst s
  | .ref s => .ref s

/-- R77 `Load()`: nothing at all once CAL_VALID = 1 (R79); else eleven coefficients and the commit. -/
def load (s : State) : Flow Unit :=
  if s.calValid then .val () s else endLoad (loadCoefs coefOrder (begin s))

/-- LOAD_CAL (R76). -/
def execLoadCal (s : State) : Host.Outcome State Fault Refusal := outcome conclude s (load s)

end Sys2Proof.Machine
end

