-- ==== Sys2Proof/Machine/Compensation.lean ====
section
/-! DEFINITION. The fixed-point compensation transform, step by step (R97 to R118), and COMPENSATE (R96). -/
namespace Sys2Proof.Machine

/-- C1, the first temperature term (R98). -/
def compX1 (cal : Vector Half 11) (ut : Half) : Word :=
  asr32 (mul32 (sub32 (ut.signExtend 32) (coef cal 5)) (coef cal 4)) 15

/-- C2, the temperature divisor X1 + MD (R99). -/
def compDivisor (cal : Vector Half 11) (ut : Half) : Word := add32 (compX1 cal ut) (coef cal 10)

/-- C2, the second temperature term, for a divisor that is not zero (R99). -/
def compX2 (cal : Vector Half 11) (ut : Half) : Word := sdiv32 (shl32 (coef cal 9) 11) (compDivisor cal ut)

/-- C3 (R100). -/
def compB5 (cal : Vector Half 11) (ut : Half) : Word := add32 (compX1 cal ut) (compX2 cal ut)

/-- C4, the temperature result in 0.1 °C (R101). -/
def compT (b5 : Word) : Word := asr32 (add32 b5 8#32) 4

/-- C5 (R102). -/
def compB6 (b5 : Word) : Word := sub32 b5 4000#32

/-- C6, the shared square term S (R103). -/
def compS (b6 : Word) : Word := asr32 (mul32 b6 b6) 12

/-- C7 to C9 (R104, R105, R106). -/
def compX3a (cal : Vector Half 11) (b6 : Word) : Word :=
  let x1 := asr32 (mul32 (coef cal 7) (compS b6)) 11
  let x2 := asr32 (mul32 (coef cal 1) b6) 11
  add32 x1 x2

/-- C10, the pressure offset B3 (R107). -/
def compB3 (cal : Vector Half 11) (b6 : Word) (oss : BitVec 2) : Word :=
  asr32 (add32 (shl32 (add32 (mul32 (coef cal 0) 4#32) (compX3a cal b6)) oss.toNat) 2#32) 2

/-- C11 to C13 (R108, R109, R110). -/
def compX3b (cal : Vector Half 11) (b6 : Word) : Word :=
  let x1 := asr32 (mul32 (coef cal 2) b6) 13
  let x2 := asr32 (mul32 (coef cal 6) (compS b6)) 16
  asr32 (add32 (add32 x1 x2) 2#32) 2

/-- C14, the pressure scale B4, unsigned (R111). -/
def compB4 (cal : Vector Half 11) (b6 : Word) : Word :=
  lsr32 (mul32 (coef cal 3) (add32 (compX3b cal b6) 32768#32)) 15

/-- C15, the pressure numerator B7, unsigned (R112). -/
def compB7 (cal : Vector Half 11) (b6 up : Word) (oss : BitVec 2) : Word :=
  mul32 (sub32 up (compB3 cal b6 oss)) (lsr32 50000#32 oss.toNat)

/-- C16, the raw pressure quotient, for a divisor B4 that is not zero (R113). -/
def compQuotient (b7 b4 : Word) : Word :=
  if ult32 b7 0x80000000#32 then udiv32 (shl32 b7 1) b4 else shl32 (udiv32 b7 b4) 1

/-- C17 to C19, the corrections and the pressure result in Pa (R114, R115, R116). -/
def compCorrect (p : Word) : Word :=
  let q := asr32 p 8
  let x1 := mul32 q q
  let x1 := asr32 (mul32 x1 3038#32) 16
  let x2 := asr32 (mul32 0xFFFFE343#32 p) 16
  add32 p (asr32 (add32 (add32 x1 x2) 3791#32) 4)

/-- R117 `Comp`: (T, p), or none where a divisor is zero (DIV0). The temperature divisor is checked first (R118). -/
def comp (cal : Vector Half 11) (ut : Half) (up : Word) (oss : BitVec 2) : Option (Word × Word) :=
  if compDivisor cal ut = 0#32 then none
  else
    let b5 := compB5 cal ut
    let b6 := compB6 b5
    let b4 := compB4 cal b6
    if b4 = 0#32 then none
    else some (compT b5, compCorrect (compQuotient (compB7 cal b6 up oss) b4))

/-- The result of a successful compensation (R96, R129). -/
def storeResult (r : Word × Word) (s : State) : State := { s with tReg := r.1, pReg := r.2, resValid := true }

/-- The operation of COMPENSATE (R96). The datapath takes any number of cycles (R174). -/
def compensate (s : State) : Flow Unit :=
  if s.calValid = false then .err .notInit s
  else (gap (begin s)).bind fun _ s1 =>
    match comp s1.cal s1.utReg s1.upReg s1.oss with
    | none => .err .div0 { s1 with resValid := false }
    | some r => .val () (storeResult r s1)

/-- COMPENSATE (R96). -/
def execCompensate (s : State) : Host.Outcome State Fault Refusal := outcome conclude s (compensate s)

end Sys2Proof.Machine
end

