-- ==== Sys2Proof/Machine/Async.lean ====
section
/-! DEFINITION. The asynchronous conversion state machine: INIT_ASYNC (R125) and the STEP operation with its stages
(R126 to R132). -/
namespace Sys2Proof.Machine

/-- The state part of INIT_ASYNC between the load and the start command (R125). -/
def enterAsync (s : State) : State :=
  { s with mode := modeAsync, astate := awaitingTemperature, eocPend := false }

/-- The operation of INIT_ASYNC (R125). -/
def initAsync (s : State) : Flow Unit :=
  if s.mode = modeSync then .err .mode s
  else (load s).bind fun _ s1 => startConversion s1.cfg.cmdTemp (enterAsync s1)

/-- INIT_ASYNC (R125). -/
def execInitAsync (s : State) : Host.Outcome State Fault Refusal := outcome conclude s (initAsync s)

/-- R131 `StepCommFail()`. ERR[0] is set with the failed transaction; any number of cycles passes before the Diag event
(log 3). -/
def stepCommFail (s : State) : Flow Unit :=
  (diag .commError (s.astate.setWidth 8) (setErr (errMask .comm) s)).bind fun _ s1 =>
    .val () { s1 with astate := awaitingTemperature }

/-- R128 `StageTemperature()`. -/
def stageTemperature (s : State) : Flow Unit :=
  (readByte (resultReg s.cfg 0) s).bind fun msb s1 =>
    (readByte (resultReg s1.cfg 1) s1).bind fun lsb s2 =>
      let s3 := { s2 with utBuf := half msb lsb }
      (startConversion (presByte s3.cfg s3.oss) s3).bind fun _ s4 =>
        .val () { s4 with astate := awaitingPressure }

/-- The results of a pressure stage whose compensation succeeded: stored, then the enabled channels in the order TEMP,
PRESS, ALT (R129, R151). -/
def deliver (ut : Half) (up : Word) (r : Word × Word) (s : State) : Flow Unit :=
  let s0 := storeResult r s
  (emitIf (s0.cbEn.getLsbD 0) (.temp ut r.1) s0).bind fun _ s1 =>
    (emitIf (s1.cbEn.getLsbD 1) (.press up r.2) s1).bind fun _ s2 =>
      emitIf (s2.cbEn.getLsbD 2) (.alt r.2) s2

/-- A pressure stage whose compensation met a zero divisor: no channel fires and the cycle goes on (R132). -/
def stepDiv0 (s : State) : State := { setErr (errMask .div0) s with resValid := false }

/-- The compensation of a pressure stage (R129), after the datapath's cycles (R174). -/
def stageCompensate (up : Word) (o : BitVec 2) (s : State) : Flow Unit :=
  (gap { s with utReg := s.utBuf, upReg := up }).bind fun _ s1 =>
    match comp s1.cal s1.utBuf up o with
    | none => .val () (stepDiv0 s1)
    | some r => deliver s1.utBuf up r s1

/-- R129 `StagePressure()`. -/
def stagePressure (s : State) : Flow Unit :=
  let o := s.oss
  (readByte (resultReg s.cfg 0) s).bind fun msb s1 =>
    (readByte (resultReg s1.cfg 1) s1).bind fun lsb s2 =>
      (readByte (resultReg s2.cfg 2) s2).bind fun xlsb s3 =>
        (stageCompensate (rawPressure msb lsb xlsb o) o s3).bind fun _ s4 =>
          (startConversion s4.cfg.cmdTemp s4).bind fun _ s5 =>
            .val () { s5 with astate := awaitingTemperature }

/-- R130, the end of StageInvalid where its start command failed: ASTATE is already 00. DESIGN CHOICE (log 20): the Diag
value is the register's address in 8 bits. -/
def invalidCommFail (s : State) : Flow Unit :=
  diag .commError (BitVec.ofNat 8 (controlReg s.cfg)) (setErr (errMask .comm) { s with astate := awaitingTemperature })

/-- R130 `StageInvalid()`. ERR[7] is set with the first Diag event, and ASTATE with the start command (log 3). -/
def stageInvalid (s : State) : Flow Unit :=
  (diag .invalidState (s.astate.setWidth 8) s).bind fun _ s1 =>
    ((startConversion s1.cfg.cmdTemp (setErr stateMask s1)).bind fun _ s2 =>
      .val () { s2 with astate := awaitingTemperature }).recover invalidCommFail

/-- R127 `Step()`: the stage that ASTATE names; a failed transaction runs StepCommFail (R131) or the end of R130. -/
def stepStage (s : State) : Flow Unit :=
  if s.astate = awaitingTemperature then (stageTemperature s).recover stepCommFail
  else if s.astate = awaitingPressure then (stagePressure s).recover stepCommFail
  else stageInvalid s

/-- The end of a STEP: BUSY becomes 0 (R127); after a reset nothing of it happens (R164). LAST_RESULT is not written
(R34). No stage ends in an error: each recovers from it. -/
def endStep : Flow Unit → State
  | .val _ s => { s with seq := .idle }
  | .err _ s => { s with seq := .idle }
  | .rst s => s
  | .ref s => s

/-- R126: the state in which a STEP starts. -/
def startStep (s : State) : State := begin { s with eocPend := false }

/-- R126, R127: one STEP from its start to its end. -/
def asyncStep (s : State) : Host.Outcome State Fault Refusal :=
  outcome endStep (startStep s) (stepStage (startStep s))

end Sys2Proof.Machine
end

