-- ==== Sys2Proof/Machine/Control.lean ====
section
/-! DEFINITION. The configuration and control commands: SET_OSS (R137), SET_CB (R138), STEP (R139), NOP (R140), and what
an ILLEGAL command word does (R142). Each completes in its cycle (R21). -/
namespace Sys2Proof.Machine

/-- SET_OSS o (R137): locked while a pressure conversion is in flight. -/
def execSetOss (o : BitVec 2) (s : State) : Host.Outcome State Fault Refusal :=
  .next (if s.mode = modeAsync ∧ s.astate = awaitingPressure then raise .ossLocked s
    else finishOk { s with oss := o })

/-- SET_CB m (R138). -/
def execSetCb (m : BitVec 3) (s : State) : Host.Outcome State Fault Refusal := .next (finishOk { s with cbEn := m })

/-- STEP (R139): one STEP becomes owed; it runs by R126 in a later cycle. -/
def execStep (s : State) : Host.Outcome State Fault Refusal :=
  .next (if s.mode ≠ modeAsync then raise .mode s else finishOk { s with eocPend := true })

/-- NOP (R140). -/
def execNop (s : State) : Host.Outcome State Fault Refusal := .next (finishOk s)

/-- R142: an ILLEGAL command word is recorded and has no other effect. -/
def illegalCommand (s : State) : State := raise .illegal s

end Sys2Proof.Machine
end

