-- ==== Sys2Proof/Machine/Sensor.lean ====
section
/-! DEFINITION. The meanings of the two sensor command bytes (SENS_CMD, R62, R69, R70). -/
namespace Sys2Proof.Machine

/-- CMD_TEMP (R69): the byte is written to `CTRL_REG`. -/
def execCmdTemp (s : State) : Host.Outcome State Fault Refusal := .next (writeStart s.cfg.cmdTemp s).2

/-- CMD_PRES(o) (R70): the byte with the oversampling level in bits 7:6 is written to `CTRL_REG`. -/
def execCmdPres (o : BitVec 2) (s : State) : Host.Outcome State Fault Refusal :=
  .next (writeStart (presByte s.cfg o) s).2

end Sys2Proof.Machine
end

