-- ==== Sys2Proof/Machine/Sync.lean ====
section
/-! DEFINITION. Synchronous acquisition: INIT_SYNC (R84), the guard of the synchronous accessors (R85), READ_UT (R86)
and READ_UP (R89). -/
namespace Sys2Proof.Machine

/-- The operation of INIT_SYNC (R84). -/
def initSync (s : State) : Flow Unit :=
  if s.mode = modeAsync then .err .mode s
  else (load s).bind fun _ s1 => .val () { s1 with mode := modeSync }

/-- INIT_SYNC (R84). -/
def execInitSync (s : State) : Host.Outcome State Fault Refusal := outcome conclude s (initSync s)

/-- R85 `SyncGuard()`: MODE is checked before NOTINIT (R154). -/
def syncGuard (s : State) : Flow Unit :=
  if s.mode = modeAsync then .err .mode s
  else if s.mode = modeUninit then .err .notInit s
  else .val () s

/-- The operation of READ_UT (R86). -/
def readUt (s : State) : Flow Unit :=
  (syncGuard s).bind fun _ s0 =>
    (startConversion s0.cfg.cmdTemp s0).bind fun _ s1 =>
      (waitFor tempWaitUs s1).bind fun _ s2 =>
        (readByte (resultReg s2.cfg 0) s2).bind fun msb s3 =>
          (readByte (resultReg s3.cfg 1) s3).bind fun lsb s4 =>
            .val () { s4 with utReg := half msb lsb }

/-- READ_UT (R86). -/
def execReadUt (s : State) : Host.Outcome State Fault Refusal := outcome conclude s (readUt s)

/-- The operation of READ_UP (R89). -/
def readUp (s : State) : Flow Unit :=
  (syncGuard s).bind fun _ s0 =>
    let o := s0.oss
    (startConversion (presByte s0.cfg o) s0).bind fun _ s1 =>
      (waitFor (presWaitUs o) s1).bind fun _ s2 =>
        (readByte (resultReg s2.cfg 0) s2).bind fun msb s3 =>
          (readByte (resultReg s3.cfg 1) s3).bind fun lsb s4 =>
            (readByte (resultReg s4.cfg 2) s4).bind fun xlsb s5 =>
              .val () { s5 with upReg := rawPressure msb lsb xlsb o }

/-- READ_UP (R89). -/
def execReadUp (s : State) : Host.Outcome State Fault Refusal := outcome conclude s (readUp s)

end Sys2Proof.Machine
end

