-- ==== Sys2Proof/Machine/Dispatch.lean ====
section
/-! DEFINITION. What one instruction does: one arm per constructor, each one call of its meaning. -/
namespace Sys2Proof.Machine

def exec (i : Instr) (s : State) : Host.Outcome State Fault Refusal :=
  match i with
  | .nop => Sys2Proof.Machine.execNop s
  | .loadCal => Sys2Proof.Machine.execLoadCal s
  | .initSync => Sys2Proof.Machine.execInitSync s
  | .initAsync => Sys2Proof.Machine.execInitAsync s
  | .readUt => Sys2Proof.Machine.execReadUt s
  | .readUp => Sys2Proof.Machine.execReadUp s
  | .compensate => Sys2Proof.Machine.execCompensate s
  | .setOss o => Sys2Proof.Machine.execSetOss o s
  | .setCb m => Sys2Proof.Machine.execSetCb m s
  | .step => Sys2Proof.Machine.execStep s
  | .cmdTemp => Sys2Proof.Machine.execCmdTemp s
  | .cmdPres o => Sys2Proof.Machine.execCmdPres o s

end Sys2Proof.Machine
end

