-- ==== Sys2Proof/Machine/Cycle.lean ====
section
/-! DEFINITION. One BCP clock cycle that begins between two operations: the order of what happens in it (R150), the
decoder (R68), and when a STEP starts (R126). -/
namespace Sys2Proof.Machine

/-- A cycle in which nothing happens at the inputs: `eoc` keeps its level and no one acts. -/
def quietCycle (eoc : Bool) : Cycle := { rst := false, eoc := eoc, host := .idle, corrupt := none, seqDone := true, atOnce := 0 }

/-- The inputs of this cycle, taken off the list; after the last one the environment is quiet. -/
def takeCycle (s : State) : Cycle × State :=
  match s.inputs with
  | [] => (quietCycle s.eocPrev, s)
  | c :: cs => (c, { s with inputs := cs })

/-- R153: the environment upsets ASTATE, where `ADMIT_CORRUPTION` holds and BUSY = 0; else there is no such event. -/
def corruptAstate (v : Option (BitVec 2)) (s : State) : State :=
  match v with
  | none => s
  | some v => if s.cfg.admitCorruption && !busy s then pushEvent (.corrupt v) { s with astate := v } else s

/-- R126: a STEP starts if one was owed when the cycle began, MODE = ASYNC and the sequencer is idle. -/
def startOwed (owed : Bool) (s : State) : Host.Outcome State Fault Refusal :=
  if owed && s.mode == modeAsync && !busy s then asyncStep s else .next s

/-- R68: a CMD write of word `w`. An ILLEGAL word starts no operation, so an owed STEP starts in the same cycle (R126,
R150; DEDUCED, log 10). -/
def commandWrite (owed : Bool) (w : Word) (s : State) : Host.Outcome State Fault Refusal :=
  if busy s then .next (rejectBusy s)
  else match decodeHost w with
    | .ok i => exec i s
    | .error _ => startOwed owed (illegalCommand s)

/-- The start command at the bus port is written (R69, R70), and no operation goes on after it. -/
def issueCommand (b : Byte) (s : State) : Host.Outcome State Fault Refusal :=
  match decodeSens s.cfg b with
  | .error _ => .refused .startCommand
  | .ok i =>
    match exec i s with
    | .next t => .next { t with seq := .idle }
    | .fault r => .fault r
    | .refused r => .refused r

/-- One cycle with inputs `c`: reset first, then the edge detector, the host's access, and the sequencer (R150). -/
def runCycle (c : Cycle) (s : State) : Host.Outcome State Fault Refusal :=
  if c.rst then .next (doReset s)
  else if !c.host.admitted then .refused .hostAccess
  else
    let s1 := sampleEoc c.eoc (corruptAstate c.corrupt s)
    match s1.seq with
    | .issue b => issueCommand b (hostAccess c.host s1)
    | .idle | .running =>
      match c.host.command with
      | some w => commandWrite s.eocPend w s1
      | none => startOwed s.eocPend (hostAccess c.host s1)

/-- One step: the next cycle's inputs, and the cycle; a configuration that R70 refuses is refused. -/
def cycleStep (s : State) : Host.Outcome State Fault Refusal :=
  if s.cfg.wf then runCycle (takeCycle s).1 (takeCycle s).2 else .refused .configuration

/-- The inputs of a cycle in which the host writes `w` to CMD and nothing else happens (R38). -/
def commandCycle (eoc : Bool) (w : Word) : Cycle := { quietCycle eoc with host := .write offCmd 4 w }

/-- Place an instruction where the next step fetches it: a 32-bit row as the host's CMD write of the next cycle, an
8-bit row as the start command at the bus port in a quiet cycle. -/
def placeWord (s : State) (nbits w : Nat) : State :=
  if nbits = 8 then { s with seq := .issue (BitVec.ofNat 8 w), inputs := quietCycle s.eocPrev :: s.inputs }
  else { s with seq := .idle, inputs := commandCycle s.eocPrev (BitVec.ofNat 32 w) :: s.inputs }

end Sys2Proof.Machine
end

