-- ==== Sys2Proof/Machine/Step.lean ====
section
/-! DEFINITION. The step of the machine, and where it fetches its next instruction. -/
namespace Sys2Proof.Machine

/-- One step: one BCP clock cycle between operations, with the whole operation that starts in it. -/
def step (s : State) : Host.Outcome State Fault Refusal := cycleStep s

/-- The state with an instruction placed where `step` fetches its next one. -/
def State.withFetchWord (s : State) (nbits w : Nat) : State := placeWord s nbits w

end Sys2Proof.Machine
end

