-- ==== Sys2Proof/Machine/HostConv.lean ====
section
/-! DEFINITION. The host-side conversions of the integer results (R119 to R124). The host computes them; no step does.
A float is the IEEE 754 value it denotes (`FloatVal`): rounding is to nearest even, gradual below the least normal exponent,
and overflows to an infinity. -/
namespace Sys2Proof.Machine

/-! ### The arithmetic of a float format (R119, IEEE 754) -/

/-- The precision of a format in bits. -/
def precision : FloatFormat → Nat
  | .binary32 => 24
  | .binary64 => 53

/-- The greatest exponent of a format. -/
def maxExp : FloatFormat → Int
  | .binary32 => 127
  | .binary64 => 1023

/-- The exponent of the least normal value of a format. -/
def minExp (f : FloatFormat) : Int := 1 - maxExp f

/-- 2^e as a rational. -/
def pow2 (e : Int) : Rat := if 0 ≤ e then ((2 ^ e.toNat : Nat) : Rat) else 1 / ((2 ^ (-e).toNat : Nat) : Rat)

/-- floor(log2 x) for a positive x. -/
def floorLog2 (x : Rat) : Int :=
  let l : Int := (x.num.toNat.log2 : Int) - (x.den.log2 : Int)
  if pow2 l ≤ x then l else l - 1

/-- The integer nearest to y, ties to even. -/
def roundHalfEven (y : Rat) : Int :=
  let f := y.floor
  let r := y - (f : Rat)
  if r < 1 / 2 then f
  else if 1 / 2 < r then f + 1
  else if f % 2 = 0 then f else f + 1

/-- The magnitude of a rational. -/
def ratAbs (x : Rat) : Rat := if x < 0 then -x else x

/-- A magnitude rounded to the format's precision, to nearest even, with no bound above. -/
def roundMag (f : FloatFormat) (x : Rat) : Rat :=
  let e := max (floorLog2 x) (minExp f) - ((precision f : Int) - 1)
  (roundHalfEven (x / pow2 e) : Rat) * pow2 e

/-- The value of the format nearest to a signed magnitude; a magnitude that rounds beyond the greatest exponent is an
infinity. -/
def roundTo (f : FloatFormat) (neg : Bool) (x : Rat) : FloatVal :=
  if x = 0 then .num neg 0
  else if pow2 (maxExp f + 1) ≤ roundMag f x then .inf neg
  else .num neg (roundMag f x)

/-- R119 `fl`: the value of the format nearest to a rational. -/
def fl (f : FloatFormat) (x : Rat) : FloatVal := roundTo f (decide (x < 0)) (ratAbs x)

/-- The value of the format nearest to a float value. -/
def roundF (f : FloatFormat) : FloatVal → FloatVal
  | .num neg mag => roundTo f neg (ratAbs mag)
  | .inf neg => .inf neg
  | .nan => .nan

/-- The float with the other sign. -/
def negF : FloatVal → FloatVal
  | .num neg mag => .num (!neg) mag
  | .inf neg => .inf (!neg)
  | .nan => .nan

/-- The rounded product. -/
def mulF (f : FloatFormat) : FloatVal → FloatVal → FloatVal
  | .num n a, .num m b => roundTo f (n != m) (a * b)
  | .num n a, .inf m | .inf n, .num m a => if a = 0 then .nan else .inf (n != m)
  | .inf n, .inf m => .inf (n != m)
  | .nan, _ | _, .nan => .nan

/-- The rounded quotient. -/
def divF (f : FloatFormat) : FloatVal → FloatVal → FloatVal
  | .num n a, .num m b =>
    if b = 0 then (if a = 0 then .nan else .inf (n != m)) else roundTo f (n != m) (a / b)
  | .num n _, .inf m => .num (n != m) 0
  | .inf n, .num m _ => .inf (n != m)
  | .inf _, .inf _ => .nan
  | .nan, _ | _, .nan => .nan

/-- A finite value as a rational. -/
def signedMag (neg : Bool) (mag : Rat) : Rat := if neg then -mag else mag

/-- The rounded sum; an exact zero of two signs is positive. -/
def addF (f : FloatFormat) : FloatVal → FloatVal → FloatVal
  | .num n a, .num m b =>
    if signedMag n a + signedMag m b = 0 then .num (n && m) 0 else fl f (signedMag n a + signedMag m b)
  | .num _ _, .inf m => .inf m
  | .inf n, .num _ _ => .inf n
  | .inf n, .inf m => if n = m then .inf n else .nan
  | .nan, _ | _, .nan => .nan

/-- The rounded difference. -/
def subF (f : FloatFormat) (a b : FloatVal) : FloatVal := addF f a (negF b)

/-- R119: the library's `pow`, a value of the format, uninterpreted but for `pow_F(1.0, y) = 1.0`. -/
def powF (f : FloatFormat) (x y : FloatVal) : FloatVal :=
  if x = .num false 1 then .num false 1 else roundF f (Config.freePow f x y)

/-! ### The conversions (R120 to R124) -/

/-- R120: the temperature in °C. -/
def tempC (f : FloatFormat) (t : Word) : FloatVal := mulF f (fl f (t.toInt : Rat)) (fl f (1 / 10))

/-- R121: the exact-real value of the temperature in °F. -/
def tempFReal (c : Rat) : Rat := c * 9 / 5 + 32

/-- R121: the temperature in °F, by the host's own function `toF`, a parameter. -/
def tempF (toF : FloatVal → FloatVal) (f : FloatFormat) (t : Word) : FloatVal := toF (tempC f t)

/-- R122: the pressure in hPa. -/
def pressureHPa (f : FloatFormat) (p : Word) : FloatVal := divF f (fl f (p.toInt : Rat)) (fl f 100)

/-- R123: the altitude in metres of a pressure in hPa. -/
def altitudeM (f : FloatFormat) (hPa : FloatVal) : FloatVal :=
  mulF f (fl f 44330) (subF f (fl f 1) (powF f (divF f hPa (fl f (101325 / 100))) (fl f (1000 / 5255))))

/-- R124: the altitude in feet, with the open parameter `FT_PER_M`, any float value or exact number (log 17). -/
def altitudeFt (f : FloatFormat) (ftPerM hPa : FloatVal) : FloatVal := mulF f (altitudeM f hPa) ftPerM

/-- The default of `FT_PER_M` (R10, R124), exact as the formula writes it (DEDUCED, log 17). -/
def ftPerMDefault : FloatVal := .num false (328084 / 100000)

/-! ### What the host computes from a channel's payload (R151) -/

/-- The Temperature callback's (raw, celsius, fahrenheit) from a TEMP pulse. -/
def temperatureCallback (toF : FloatVal → FloatVal) (f : FloatFormat) (raw : Half) (t : Word) : Half × FloatVal × FloatVal :=
  (raw, tempC f t, tempF toF f t)

/-- The Pressure callback's (raw, hPa) from a PRESS pulse. -/
def pressureCallback (f : FloatFormat) (raw p : Word) : Word × FloatVal := (raw, pressureHPa f p)

/-- The Altitude callback's (meters, feet) from an ALT pulse. -/
def altitudeCallback (f : FloatFormat) (ftPerM : FloatVal) (p : Word) : FloatVal × FloatVal :=
  (altitudeM f (pressureHPa f p), altitudeFt f ftPerM (pressureHPa f p))

end Sys2Proof.Machine
end

