-- ==== Sys2Proof/Machine/Script.lean ====
section
/-! DEFINITION. The host-script notation (R72, R73) and the end of a run (R171): a host that acts on the BCP one line at a
time, with its scratch registers. The host's program is no BCP state (R17); it stands here beside the machine. -/
namespace Sys2Proof.Machine

/-- The host's scratch registers h0 to h7 (R72). -/
abbrev HostReg := Fin 8

/-- One line of a host script (R72). A label is the number of its line. -/
inductive Line where
  /-- `CMD <MNEMONIC>`. -/
  | cmd (i : Instr)
  /-- `WR <off>, <value>`. -/
  | wr (off : BitVec 8) (w : Word)
  /-- `RD hN, <off>`. -/
  | rd (h : HostReg) (off : BitVec 8)
  /-- `ANDI hN, hM, imm`. -/
  | andi (n m : HostReg) (imm : Word)
  /-- `SRLI hN, hM, sh`. -/
  | srli (n m : HostReg) (sh : Nat)
  /-- `BNZ hN, label`. -/
  | bnz (n : HostReg) (label : Nat)
  /-- `BZ hN, label`. -/
  | bz (n : HostReg) (label : Nat)
  /-- `HALT`. -/
  | halt
  /-- `ENV EOC`. -/
  | envEoc
  /-- `ENV BUS r -> b`. -/
  | envBus (r : Nat) (b : Byte)
  /-- `ENV BUSFAIL`. -/
  | envBusFail
  /-- MODEL'S OWN: the next transaction, a write, completes with ok = 1; without it a write is a free draw (R49). -/
  | envAck
  deriving DecidableEq, Repr

/-- Register offsets by name (R47, R72). -/
def offStatus : BitVec 8 := 0x04#8
/-- The offset of ERR. -/
def offErr : BitVec 8 := 0x08#8
/-- The offset of UT_REG. -/
def offUt : BitVec 8 := 0x0C#8
/-- The offset of UP_REG. -/
def offUp : BitVec 8 := 0x10#8
/-- The offset of T_REG. -/
def offT : BitVec 8 := 0x14#8
/-- The offset of P_REG. -/
def offP : BitVec 8 := 0x18#8

/-- R73 `WAIT_IDLE`, standing at line `at0`. -/
def waitIdle (at0 : Nat) : List Line := [.rd 7 offStatus, .andi 7 7 1#32, .bnz 7 at0]
/-- R73 `RESULT hN`. -/
def resultLines (n : HostReg) : List Line := [.rd n offStatus, .srli n n 8, .andi n n 0xF#32]
/-- R73 `CLR_ERR m`. -/
def clrErrLines (m : Word) : List Line := [.wr offErr m]
/-- R73 `MEASURE`, standing at line `at0`. -/
def measureLines (at0 : Nat) : List Line :=
  [.cmd .readUt] ++ waitIdle (at0 + 1) ++ [.cmd .readUp] ++ waitIdle (at0 + 5) ++ [.cmd .compensate]
    ++ waitIdle (at0 + 9)

/-- A host running a script against the BCP. -/
structure HostRun where
  bcp : State
  /-- The next line. -/
  pc : Nat
  regs : Vector Word 8
  halted : Bool
  deriving DecidableEq, Repr

/-- The machine in one cycle with the given inputs. -/
def stepWith (c : Cycle) (s : State) : Host.Outcome State Fault Refusal := step { s with inputs := [c] }

/-- The host after a machine step, at its next line. -/
def HostRun.advance (r : HostRun) (o : Host.Outcome State Fault Refusal) : Host.Outcome HostRun Fault Refusal :=
  match o with
  | .next s => .next { r with bcp := s, pc := r.pc + 1 }
  | .fault f => .fault f
  | .refused f => .refused f

/-- A cycle with one host access and `eoc` at its level. -/
def accessCycle (r : HostRun) (a : HostAccess) : Cycle := { quietCycle r.bcp.eocPrev with host := a }

/-- The value of the last host read. -/
def lastRead (s : State) : Word :=
  match s.reads.getLast? with
  | some x => x.2
  | none => 0#32

/-- R171: the script has ended (HALT), BUSY = 0, and in async mode no STEP is owed. It does not say that the async machine
has stopped. -/
def runEnded (r : HostRun) : Bool :=
  r.halted && !busy r.bcp && (r.bcp.mode != modeAsync || !r.bcp.eocPend)

/-- A cycle after HALT (R171): until the run has ended the BCP goes on in quiet cycles, so the STEPs that are owed run. -/
def settle (r : HostRun) : Host.Outcome HostRun Fault Refusal :=
  if runEnded r then .next r
  else match stepWith (quietCycle r.bcp.eocPrev) r.bcp with
    | .next s => .next { r with bcp := s }
    | .fault f => .fault f
    | .refused f => .refused f

/-- One line of the script (R72), or a cycle after its end. A line past the end acts as HALT; a `CMD` line names a host
command. -/
def lineStep (script : List Line) (r : HostRun) : Host.Outcome HostRun Fault Refusal :=
  if r.halted then settle r
  else match script[r.pc]? with
    | none | some .halt => .next { r with halted := true }
    | some (.cmd i) =>
      match encode r.bcp.cfg i with
      | .host w => r.advance (stepWith (accessCycle r (.write offCmd 4 w)) r.bcp)
      | .sens _ => .refused .startCommand
    | some (.wr off w) => r.advance (stepWith (accessCycle r (.write off 4 w)) r.bcp)
    | some (.rd h off) =>
      match r.advance (stepWith (accessCycle r (.read off 4)) r.bcp) with
      | .next r1 => .next { r1 with regs := r1.regs.set h (lastRead r1.bcp) }
      | .fault f => .fault f
      | .refused f => .refused f
    | some (.andi n m imm) => .next { r with regs := r.regs.set n (r.regs[m] &&& imm), pc := r.pc + 1 }
    | some (.srli n m sh) => .next { r with regs := r.regs.set n (r.regs[m] >>> sh), pc := r.pc + 1 }
    | some (.bnz n l) => .next { r with pc := if r.regs[n] ≠ 0#32 then l else r.pc + 1 }
    | some (.bz n l) => .next { r with pc := if r.regs[n] = 0#32 then l else r.pc + 1 }
    | some .envEoc =>
      match stepWith (quietCycle false) r.bcp with
      | .next s => r.advance (stepWith (quietCycle true) s)
      | .fault f => .fault f
      | .refused f => .refused f
    | some (.envBus reg b) =>
      .next { r with bcp := { r.bcp with answers := r.bcp.answers ++ [.data reg b] }, pc := r.pc + 1 }
    | some .envBusFail => .next { r with bcp := { r.bcp with answers := r.bcp.answers ++ [.fail] }, pc := r.pc + 1 }
    | some .envAck => .next { r with bcp := { r.bcp with answers := r.bcp.answers ++ [.ack] }, pc := r.pc + 1 }

/-- `k` lines of a script, and cycles after its end. -/
def runLines (script : List Line) : Nat → HostRun → Host.Outcome HostRun Fault Refusal
  | 0, r => .next r
  | k + 1, r =>
    match lineStep script r with
    | .next r1 => runLines script k r1
    | .fault f => .fault f
    | .refused f => .refused f

/-- A host about to run a script on a BCP. What its scratch registers hold then is an argument: R72 does not say (log 18). -/
def hostStart (regs : Vector Word 8) (s : State) : HostRun := { bcp := s, pc := 0, regs := regs, halted := false }

/-- R171: the final state of a script, if it has ended within `k` lines and cycles. -/
def finalState (script : List Line) (k : Nat) (r : HostRun) : Option State :=
  match runLines script k r with
  | .next t => if runEnded t then some t.bcp else none
  | .fault _ => none
  | .refused _ => none

end Sys2Proof.Machine
end

