-- ==== Sys2Proof/Safety.lean ====
section
/-! DEFINITION. The terms the claims use: what the environment does (resets, answers, a quiet environment), the events of
an operation, what the cycles inside an operation may change, and the invariant of the machine. -/
namespace Sys2Proof.Machine

/-! ### The environment -/

/-- No reset is asserted in the coming cycles. -/
def NoReset (s : State) : Prop := ∀ c ∈ s.inputs, c.rst = false

/-- Every host access in the coming cycles is one that R46 admits. -/
def Admitted (s : State) : Prop := ∀ c ∈ s.inputs, c.host.admitted = true

/-- A host access that writes ERR (R37). -/
def HostAccess.writesErr : HostAccess → Bool
  | .write off _ _ => off == offErr
  | .idle | .read _ _ => false

/-- No write to ERR is made in the coming cycles. -/
def NoErrWrite (s : State) : Prop := ∀ c ∈ s.inputs, c.host.writesErr = false

/-- The answers to reads of the given registers with the given bytes. -/
def readAnswers (l : List (Nat × Byte)) : List Answer := l.map fun x => .data x.1 x.2

/-! ### Events -/

/-- The event of a read with ok = 1. -/
def rdEvent (cfg : Config) (r : Nat) (b : Byte) : Event := .busRd cfg.sensDevAddr r (some b)

/-- The event of a read with ok = 0. -/
def rdFailEvent (cfg : Config) (r : Nat) : Event := .busRd cfg.sensDevAddr r none

/-- The event of a start command. -/
def startEvent (cfg : Config) (b : Byte) (ok : Bool) : Event := .busWr cfg.sensDevAddr (controlReg cfg) b ok

/-- The events of reads of the given registers with the given bytes. -/
def readEvents (cfg : Config) (l : List (Nat × Byte)) : List Event := l.map fun x => rdEvent cfg x.1 x.2

/-- The 22 reads of a load in order: for each coefficient its MSB register and byte, then its LSB register and byte. -/
def calReads (cfg : Config) (hi lo : Fin 11 → Byte) : List (Nat × Byte) :=
  coefOrder.flatMap fun (k : Fin 11) => [(calMsbReg cfg k.val, hi k), (calLsbReg cfg k.val, lo k)]

/-- The coefficients that the bytes of a load make (R52). -/
def calOf (hi lo : Fin 11 → Byte) : Vector Half 11 := Vector.ofFn fun k => half (hi k) (lo k)

/-- A bus transaction. -/
def Event.isBus : Event → Bool
  | .busRd _ _ _ | .busWr _ _ _ _ => true
  | .wait _ | .temp _ _ | .press _ _ | .alt _ | .diag _ _ | .corrupt _ => false

/-- A bus transaction with ok = 0. -/
def Event.failed : Event → Bool
  | .busRd _ _ a => a.isNone
  | .busWr _ _ _ ok => !ok
  | .wait _ | .temp _ _ | .press _ _ | .alt _ | .diag _ _ | .corrupt _ => false

/-- A pulse of one of the three result channels (R151). -/
def Event.isPulse : Event → Bool
  | .temp _ _ | .press _ _ | .alt _ => true
  | .busRd _ _ _ | .busWr _ _ _ _ | .wait _ | .diag _ _ | .corrupt _ => false

/-- A pulse of channel TEMP. -/
def Event.isTemp : Event → Bool
  | .temp _ _ => true
  | .press _ _ | .alt _ | .busRd _ _ _ | .busWr _ _ _ _ | .wait _ | .diag _ _ | .corrupt _ => false

/-- A pulse of channel PRESS. -/
def Event.isPress : Event → Bool
  | .press _ _ => true
  | .temp _ _ | .alt _ | .busRd _ _ _ | .busWr _ _ _ _ | .wait _ | .diag _ _ | .corrupt _ => false

/-- A pulse of channel ALT. -/
def Event.isAlt : Event → Bool
  | .alt _ => true
  | .temp _ _ | .press _ _ | .busRd _ _ _ | .busWr _ _ _ _ | .wait _ | .diag _ _ | .corrupt _ => false

/-- No bus transaction after a failed one (R58). -/
def NoBusAfterFailure (es : List Event) : Prop :=
  ∀ pre e post, es = pre ++ e :: post → e.failed = true → ∀ x ∈ post, x.isBus = false

/-- The pulses of a pressure stage under the enables `en`, in order (R129, R151). -/
def pulses (en : BitVec 3) (ut : Half) (up : Word) (r : Word × Word) : List Event :=
  (if en.getLsbD 0 then [.temp ut r.1] else []) ++ (if en.getLsbD 1 then [.press up r.2] else [])
    ++ (if en.getLsbD 2 then [.alt r.2] else [])

/-! ### What the cycles inside an operation may change -/

/-- `s` with what cycles while BUSY = 1 may change taken from `t`: the ERR bits the host clears or a rejected write sets,
the edge detector's bits, the host's reads, and the inputs used up. -/
def busyChange (s t : State) : State :=
  { s with err := t.err, eocPrev := t.eocPrev, eocPend := t.eocPend, reads := t.reads, inputs := t.inputs }

/-- The level of `eoc` after samples of the given levels, from level `p` (R149). -/
def levelAfter (p : Bool) : List Bool → Bool
  | [] => p
  | e :: es => levelAfter e es

/-- Whether `eoc` rises in samples of the given levels, from level `p` (R149). -/
def rises (p : Bool) : List Bool → Bool
  | [] => false
  | e :: es => (e && !p) || rises e es

/-- From `s` to `t` the edge detector has sampled the cycles that were used up, and a rising edge among them in async mode
has made a STEP owed (R149). -/
def EocFollows (s t : State) : Prop :=
  ∃ es : List Bool, s.inputs.map Cycle.eoc = es ++ t.inputs.map Cycle.eoc
    ∧ t.eocPrev = levelAfter s.eocPrev es
    ∧ t.eocPend = (s.eocPend || (decide (s.mode = modeAsync) && rises s.eocPrev es))

/-- Every ERR bit that `t` has and `s` has not is one of `mask`. -/
def NewErrWithin (mask : BitVec 8) (s t : State) : Prop := t.err &&& ~~~(s.err ||| mask) = 0#8

/-! ### The invariant of the machine between steps -/

/-- What holds between any two steps. -/
structure MachineInv (s : State) : Prop where
  /-- MODE is never 11 (R22, S6). -/
  modeLegal : s.mode ≠ 3#2
  /-- LAST_RESULT is one of the codes 0 to 6 (R34, S8). -/
  resultLegal : s.lastResult.toNat ≤ 6
  /-- No operation runs between two steps. -/
  seqIdle : s.seq = .idle
  /-- The wait counter is at zero between two steps. -/
  waitIdle : s.waitCnt = 0
  /-- A mode is chosen only after a successful load (R81). -/
  modeLoaded : s.mode ≠ modeUninit → s.calValid = true
  /-- A result is valid only after a successful load (R96). -/
  resultLoaded : s.resValid = true → s.calValid = true
  /-- A STEP is owed in async mode only (R149, R139). -/
  owedAsync : s.eocPend = true → s.mode = modeAsync
  /-- CAL keeps its reset value until the commit (R19, R77). -/
  calUnloaded : s.calValid = false → s.cal = State.reset.cal
  /-- Without upsets, ASTATE is one of its two states (R24, R153, S7). -/
  astateLegal : s.cfg.admitCorruption = false → s.astate = awaitingTemperature ∨ s.astate = awaitingPressure
  /-- Without upsets, ASTATE leaves AwaitingTemperature in async mode only (R24). -/
  astateAsync : s.cfg.admitCorruption = false → s.astate ≠ awaitingTemperature → s.mode = modeAsync

end Sys2Proof.Machine
end

