-- ==== Sys2Proof/Certificates/Slice0/Obligations.lean ====
section
/-! DEFINITION. The statements for the provers: what the rules of the spec say the BCP does, as propositions about the
model. `s.inputs = []` is a quiet environment inside the operation (log entry 2); `NoReset s` and `Admitted s` allow every input
but reset and an access that R46 refuses. -/
open Sys2Proof Sys2Proof.Machine

/-! ### Encoding -/

/-- R64 to R70: the encoding of a well-formed instruction is that instruction's alone, with every operand value. -/
def Obligations.EncodedInstructionDecodes : Prop :=
  ∀ (cfg : Config) (i : Instr), i.wf cfg = true → decode cfg (encode cfg i) = .ok i

/-- R67, R68, R70: a word or byte that decodes is the encoding of what it decodes to, so no bit is ignored. -/
def Obligations.DecodedWordReencodes : Prop :=
  ∀ (cfg : Config) (c : CmdWord) (i : Instr), cfg.wf = true → decode cfg c = .ok i → encode cfg i = c

/-- R63, R67 (a) to (d): which command words are ILLEGAL, in numbers. -/
def Obligations.IllegalWordsAreExactly : Prop :=
  ∀ w : BitVec 32, (∃ e, decodeHost w = .error e) ↔
    (10 ≤ w.toNat % 16 ∨ w.toNat / 512 ≠ 0 ∨ (w.toNat / 16 % 4 ≠ 0 ∧ w.toNat % 16 ≠ 7)
      ∨ (w.toNat / 64 % 8 ≠ 0 ∧ w.toNat % 16 ≠ 8))

/-- R74: the encoded examples: each named command has the word given, which decodes to it; the four words at the end
are ILLEGAL. -/
def Obligations.ExampleWordsDecode : Prop :=
  (∀ (cfg : Config) (p : Instr × BitVec 32),
    p ∈ [(Instr.nop, 0x00000000#32), (.loadCal, 0x00000001#32), (.initSync, 0x00000002#32),
      (.initAsync, 0x00000003#32), (.readUt, 0x00000004#32), (.readUp, 0x00000005#32), (.compensate, 0x00000006#32),
      (.step, 0x00000009#32), (.setOss 0, 0x00000007#32), (.setOss 1, 0x00000017#32), (.setOss 2, 0x00000027#32),
      (.setOss 3, 0x00000037#32), (.setCb 7, 0x000001C8#32), (.setCb 1, 0x00000048#32), (.setCb 2, 0x00000088#32),
      (.setCb 4, 0x00000108#32)] →
    encode cfg p.1 = .host p.2 ∧ decodeHost p.2 = .ok p.1)
  ∧ decodeHost 0x00000010#32 = .error .ossfUnused ∧ decodeHost 0x00000047#32 = .error .cbmUnused
  ∧ decodeHost 0x0000000A#32 = .error .reservedOpc ∧ decodeHost 0x80000001#32 = .error .rsvNonzero

/-- R70: the pressure start byte holds the level in bits 7:6 over the base and is written to `CTRL_REG`; the default
bytes; a base with bits 7:6 nonzero is refused as a configuration. -/
def Obligations.PressureStartByte : Prop :=
  (∀ (cfg : Config) (o : BitVec 2), presByte cfg o = cfg.cmdPresBase ||| (o.setWidth 8 <<< 6))
  ∧ (∀ (cfg : Config) (o : BitVec 2), cfg.wf = true →
      (presByte cfg o).extractLsb' 6 2 = o
      ∧ (presByte cfg o).extractLsb' 0 6 = cfg.cmdPresBase.extractLsb' 0 6)
  ∧ (∀ (s : State) (o : BitVec 2), ∃ ok as, exec (.cmdPres o) s = .next { s with
      history := s.history ++ [.busWr s.cfg.sensDevAddr (controlReg s.cfg) (presByte s.cfg o) ok],
      answers := as, draws := s.draws + 1 })
  ∧ Config.default.cmdPresBase = 0x34#8 ∧ presByte Config.default 0 = 0x34#8 ∧ presByte Config.default 1 = 0x74#8
  ∧ presByte Config.default 2 = 0xB4#8 ∧ presByte Config.default 3 = 0xF4#8
  ∧ (∀ s : State, s.cfg.cmdPresBase.extractLsb' 6 2 ≠ 0#2 → step s = .refused .configuration)

/-! ### The step -/

/-- R68: a step in which the host writes a word that decodes runs that instruction. That the upset and the edge detector
come before it within the cycle is the model's choice (log entry 9). The placed word is the special case with quiet
inputs (log entry 14). -/
def Obligations.StepRunsDecodedCommand : Prop :=
  (∀ (s : State) (c : Cycle) (cs : List Cycle) (w : Word) (i : Instr),
    s.cfg.wf = true → s.seq = .idle → s.inputs = c :: cs → c.rst = false → c.host = .write offCmd 4 w →
    decodeHost w = .ok i →
    step s = exec i (sampleEoc c.eoc (corruptAstate c.corrupt { s with inputs := cs })))
  ∧ (∀ (s : State) (w : Nat) (i : Instr), s.cfg.wf = true → decodeHost (BitVec.ofNat 32 w) = .ok i →
    step (s.withFetchWord 32 w) = exec i { s with seq := .idle })

/-- R69, R70: a step with a start command at the bus port runs it. That the sequencer is idle afterwards is the model's
choice for a start command placed on its own (log entry 13). -/
def Obligations.StepRunsStartCommand : Prop :=
  ∀ (s t : State) (b : Nat) (i : Instr), s.cfg.wf = true → decodeSens s.cfg (BitVec.ofNat 8 b) = .ok i →
    exec i { s with seq := .issue (BitVec.ofNat 8 b) } = .next t →
    step (s.withFetchWord 8 b) = .next { t with seq := .idle }

/-- The invariant holds right after reset (R43, R164). That an operation is within one step, so that the sequencer is idle
between steps, and that the wait counter is then 0, are the model's choices (log entries 1 and 8). -/
def Obligations.ResetMeetsInvariant : Prop := MachineInv State.reset

/-- Every step, with any inputs and any answers, keeps the invariant: legal MODE and LAST_RESULT, an idle sequencer
between steps, no mode and no valid result before the load, CAL untouched before the commit, ASTATE legal without
upsets. The idle sequencer and the wait counter at 0 between steps are the model's choices (log entries 1 and 8). -/
def Obligations.StepKeepsInvariant : Prop := ∀ s t : State, MachineInv s → step s = .next t → MachineInv t

/-- R43: the reset values of the table. -/
def Obligations.ResetValuesOfTable : Prop :=
  (∀ k : Fin 11, State.reset.cal[k] = 0x0000#16)
  ∧ State.reset.calValid = false ∧ State.reset.seq = .idle ∧ busy State.reset = false ∧ State.reset.mode = 0#2
  ∧ State.reset.oss = 1#2 ∧ State.reset.astate = 0#2 ∧ State.reset.utBuf = 0#16 ∧ State.reset.eocPrev = false
  ∧ State.reset.eocPend = false ∧ State.reset.cbEn = 0#3 ∧ State.reset.utReg = 0#16 ∧ State.reset.upReg = 0#32
  ∧ State.reset.tReg = 0#32 ∧ State.reset.pReg = 0#32 ∧ State.reset.resValid = false
  ∧ State.reset.lastResult = 0#4 ∧ State.reset.err = 0x00#8

/-- R164: reset in a cycle between operations, whatever else happens in it, and reset in a cycle inside an operation,
give every register its reset value; no event is added after it. The places inside operations that are stated: before
the first event of each operation, and before and after the Wait event of READ_UP. The model's choices: the reset values of
CAL_SHADOW (log entry 7) and of the wait counter (log entry 8); that a wait is in the history from its start (log entry 8);
that the configuration, the histories and the environment's choices stay (log entry 16). -/
def Obligations.ResetOverridesAndAbandons : Prop :=
  ∀ (s : State) (c : Cycle) (cs : List Cycle), s.inputs = c :: cs →
    let t : State := { State.reset with
      cfg := s.cfg, history := s.history, reads := s.reads, inputs := cs, answers := s.answers, draws := s.draws }
    (c.rst = true → s.cfg.wf = true → step s = .next t)
    ∧ (c.rst = true → c.atOnce = 0 →
      (s.calValid = false → exec .loadCal s = .next t)
      ∧ (s.calValid = false → s.mode ≠ modeAsync → exec .initSync s = .next t)
      ∧ (s.mode ≠ modeSync → exec .initAsync s = .next t)
      ∧ (s.mode = modeSync → exec .readUt s = .next t ∧ exec .readUp s = .next t)
      ∧ (s.calValid = true → exec .compensate s = .next t)
      ∧ asyncStep s = .next t)
    ∧ (∀ (d : Cycle) (ds : List Cycle) (rest : List Answer),
        c.rst = false → c.host.admitted = true → c.seqDone = true → c.atOnce = 0 → cs = d :: ds → d.rst = true →
        s.mode = modeSync → s.answers = .ack :: rest → 0 < s.cfg.clkHz →
        ∃ u, exec .readUp s = .next u ∧ u.upReg = 0#32 ∧ u.lastResult = 0#4 ∧ u.mode = modeUninit
          ∧ u.seq = .idle ∧ u.answers = rest
          ∧ u.history = s.history ++ [startEvent s.cfg (presByte s.cfg s.oss) true]
            ++ if d.atOnce = 0 then [] else [.wait (presWaitUs s.oss)])

/-- R126: in an idle async cycle with a STEP owed and no command, the STEP runs. That it runs on the state the edge
detector and the host's access of that cycle leave is the model's choice (log entries 9 and 22); so is that an ILLEGAL
command word does not hold it back but is recorded first (log entry 10). -/
def Obligations.OwedStepStarts : Prop :=
  ∀ (s : State) (c : Cycle) (cs : List Cycle), s.cfg.wf = true → s.seq = .idle → s.mode = modeAsync →
    s.eocPend = true → s.inputs = c :: cs → c.rst = false → c.corrupt = none →
    (c.host.admitted = true → c.host.command = none →
      step s = asyncStep (hostAccess c.host (sampleEoc c.eoc { s with inputs := cs })))
    ∧ (∀ (w : Word) (e : DecodeError), c.host = .write offCmd 4 w → decodeHost w = .error e →
      step s = asyncStep { sampleEoc c.eoc { s with inputs := cs } with
        lastResult := 5#4, err := s.err ||| 0x10#8 })

/-- R150: a command written while a STEP is owed goes first and the STEP stays owed. -/
def Obligations.CommandBeatsOwedStep : Prop :=
  ∀ (s : State) (c : Cycle) (cs : List Cycle) (o : BitVec 2), s.cfg.wf = true → s.seq = .idle → s.mode = modeAsync →
    s.astate = awaitingTemperature → s.eocPend = true → s.inputs = c :: cs → c.rst = false → c.corrupt = none →
    c.host = .write offCmd 4 (0x00000007#32 ||| (o.setWidth 32 <<< 4)) →
    step s = .next { s with oss := o, lastResult := 0#4, eocPrev := c.eoc, inputs := cs }

/-- R56, R149: an idle cycle with no command, no upset and no STEP owed changes the edge detector's bits, and what the
host's access changes: a read changes nothing of the BCP. That a read sees EOC_PEND after the edge detector of its own
cycle is the model's choice (log entry 9). -/
def Obligations.IdleCycleOnlySamples : Prop :=
  ∀ (s : State) (c : Cycle) (cs : List Cycle), s.cfg.wf = true → s.seq = .idle → s.eocPend = false →
    s.inputs = c :: cs → c.rst = false → c.corrupt = none →
    let t : State := { s with
      eocPend := c.eoc && !s.eocPrev && decide (s.mode = modeAsync), eocPrev := c.eoc, inputs := cs }
    (c.host = .idle → step s = .next t)
    ∧ (∀ off : BitVec 8, off.toNat % 4 = 0 → c.host = .read off 4 →
        step s = .next { t with reads := s.reads ++ [(off, readReg off t)] })

/-- R153: an upset of ASTATE between operations happens where `ADMIT_CORRUPTION` holds and is one event, else there is
none (its place in the cycle: log entry 23). -/
def Obligations.UpsetNeedsParameter : Prop :=
  ∀ (s : State) (c : Cycle) (cs : List Cycle) (v : BitVec 2), s.cfg.wf = true → s.seq = .idle → s.eocPend = false →
    s.inputs = c :: cs → c.rst = false → c.corrupt = some v → c.host = .idle → c.eoc = false →
    step s = .next (if s.cfg.admitCorruption then
        { s with astate := v, history := s.history ++ [.corrupt v], eocPrev := false, inputs := cs }
      else { s with eocPrev := false, inputs := cs })

/-- R46: which accesses are admitted, and that the model refuses any other: in a cycle between operations, and in a cycle of
a running operation, stated for the cycle before its first event. -/
def Obligations.SubwordAccessRefused : Prop :=
  (∀ (off : BitVec 8) (bytes : Nat) (w : Word),
    ((HostAccess.read off bytes).admitted = true ↔ bytes = 4 ∧ off.toNat % 4 = 0)
    ∧ ((HostAccess.write off bytes w).admitted = true ↔ bytes = 4 ∧ off.toNat % 4 = 0))
  ∧ (∀ (s : State) (c : Cycle) (cs : List Cycle), s.cfg.wf = true → s.inputs = c :: cs → c.rst = false →
      c.host.admitted = false → step s = .refused .hostAccess)
  ∧ (∀ (s : State) (c : Cycle) (cs : List Cycle), s.inputs = c :: cs → c.atOnce = 0 → c.rst = false →
      c.host.admitted = false →
      (s.calValid = false → exec .loadCal s = .refused .hostAccess
        ∧ (s.mode ≠ modeAsync → exec .initSync s = .refused .hostAccess))
      ∧ (s.mode ≠ modeSync → exec .initAsync s = .refused .hostAccess)
      ∧ (s.mode = modeSync → exec .readUt s = .refused .hostAccess ∧ exec .readUp s = .refused .hostAccess)
      ∧ (s.calValid = true → exec .compensate s = .refused .hostAccess)
      ∧ asyncStep s = .refused .hostAccess)

/-! ### The register window -/

/-- R36: the fields of STATUS, its value after reset, and that it is read-only. -/
def Obligations.StatusPacksState : Prop :=
  (∀ s : State,
    readReg 0x04#8 s = statusWord s
    ∧ (statusWord s).getLsbD 0 = busy s ∧ (statusWord s).getLsbD 1 = s.calValid
    ∧ (statusWord s).extractLsb' 2 2 = s.mode ∧ (statusWord s).extractLsb' 4 2 = s.astate
    ∧ (statusWord s).getLsbD 6 = s.eocPend ∧ (statusWord s).getLsbD 7 = s.resValid
    ∧ (statusWord s).extractLsb' 8 4 = s.lastResult ∧ (statusWord s).extractLsb' 12 2 = s.oss
    ∧ (statusWord s).extractLsb' 14 3 = s.cbEn ∧ (statusWord s).extractLsb' 17 15 = 0#15
    ∧ ∀ w : Word, writeReg 0x04#8 w s = s)
  ∧ readReg 0x04#8 State.reset = 0x00001000#32

/-- R55: reserved offsets read 0, and writes to them and to the read-only registers change nothing. -/
def Obligations.ReservedAndReadOnlyOffsets : Prop :=
  ∀ (off : BitVec 8) (w : Word) (s : State), off.toNat % 4 = 0 →
    ((off.toNat = 0x1C ∨ 0x4C ≤ off.toNat) → readReg off s = 0#32 ∧ writeReg off w s = s)
    ∧ ((off.toNat = 0x04 ∨ off.toNat = 0x14 ∨ off.toNat = 0x18 ∨ (0x20 ≤ off.toNat ∧ off.toNat ≤ 0x48)) →
        writeReg off w s = s)

/-- R39, R141: the data and coefficient registers as the host sees them, and the host's writes to them while BUSY = 0
and while BUSY = 1. -/
def Obligations.DataRegistersSeenByHost : Prop :=
  ∀ (s : State) (w : Word),
    readReg 0x0C#8 s = s.utReg.setWidth 32 ∧ readReg 0x10#8 s = s.upReg
    ∧ readReg 0x14#8 s = s.tReg ∧ readReg 0x18#8 s = s.pReg
    ∧ (∀ k : Fin 11, readReg (BitVec.ofNat 8 (0x20 + 4 * k.val)) s = s.cal[k].setWidth 32
        ∧ writeReg (BitVec.ofNat 8 (0x20 + 4 * k.val)) w s = s)
    ∧ writeReg 0x14#8 w s = s ∧ writeReg 0x18#8 w s = s
    ∧ (busy s = false → writeReg 0x0C#8 w s = { s with utReg := w.extractLsb' 0 16 }
        ∧ writeReg 0x10#8 w s = { s with upReg := w })
    ∧ (busy s = true → writeReg 0x0C#8 w s = { s with err := s.err ||| 0x40#8 }
        ∧ writeReg 0x10#8 w s = { s with err := s.err ||| 0x40#8 })

/-- R37, R150: ERR reads in bits 7:0; a host write clears exactly the bits written as 1; the STATE bit set by a STEP in
the cycle that clears it ends up set. -/
def Obligations.ErrWriteOneToClear : Prop :=
  (∀ (s : State) (w : Word), readReg 0x08#8 s = s.err.setWidth 32
    ∧ writeReg 0x08#8 w s = { s with err := (writeReg 0x08#8 w s).err }
    ∧ ∀ i : Nat, i < 8 → (writeReg 0x08#8 w s).err.getLsbD i = (s.err.getLsbD i && !w.getLsbD i))
  ∧ (∀ (s : State) (c : Cycle) (w : Word), s.cfg.wf = true → s.seq = .idle → s.mode = modeAsync →
      s.eocPend = true → s.astate = 3#2 → s.inputs = [c] → c.rst = false → c.corrupt = none →
      c.host = .write 0x08#8 4 w → ∃ t, step s = .next t ∧ t.err.getLsbD 7 = true)

/-- R145: a CMD, UT_REG or UP_REG write while BUSY = 1 is discarded and sets ERR[6]; ERR writes and reads are accepted. -/
def Obligations.BusyWritesRejected : Prop :=
  ∀ (s : State) (w : Word), busy s = true →
    (∀ off : BitVec 8, off = 0x00#8 ∨ off = 0x0C#8 ∨ off = 0x10#8 →
      hostAccess (.write off 4 w) s = { s with err := s.err ||| 0x40#8 })
    ∧ hostAccess (.write 0x08#8 4 w) s = { s with err := s.err &&& ~~~(w.setWidth 8) }
    ∧ (∀ off : BitVec 8, hostAccess (.read off 4) s = { s with reads := s.reads ++ [(off, readReg off s)] })

/-! ### The control commands: result, completion and frame in one equation -/

/-- R140: NOP, the word 0, succeeds and changes nothing but LAST_RESULT (and leaves BUSY at 0). -/
def Obligations.NopCompletes : Prop :=
  decodeHost 0x00000000#32 = .ok .nop ∧ ∀ s : State, exec .nop s = .next { s with lastResult := 0#4, seq := .idle }

/-- R137: SET_OSS, its encoding, its lock while a pressure conversion is in flight, its rejection while BUSY = 1. -/
def Obligations.SetOssCompletesOrLocks : Prop :=
  ∀ (s : State) (o : BitVec 2),
    decodeHost (0x00000007#32 ||| (o.setWidth 32 <<< 4)) = .ok (.setOss o)
    ∧ (¬(s.mode = modeAsync ∧ s.astate = awaitingPressure) →
      exec (.setOss o) s = .next { s with oss := o, lastResult := 0#4, seq := .idle })
    ∧ (s.mode = modeAsync → s.astate = awaitingPressure →
      exec (.setOss o) s = .next { s with lastResult := 6#4, err := s.err ||| 0x20#8, seq := .idle })
    ∧ (∀ owed : Bool, busy s = true →
      commandWrite owed (0x00000007#32 ||| (o.setWidth 32 <<< 4)) s = .next { s with err := s.err ||| 0x40#8 })

/-- R138: SET_CB, its encoding and its effect in every MODE and ASTATE. -/
def Obligations.SetCbCompletes : Prop :=
  ∀ (s : State) (m : BitVec 3), decodeHost (0x00000008#32 ||| (m.setWidth 32 <<< 6)) = .ok (.setCb m)
    ∧ exec (.setCb m) s = .next { s with cbEn := m, lastResult := 0#4, seq := .idle }

/-- R139: the STEP command makes one STEP owed in async mode, which does not start in the command's own cycle, and is a
mode misuse elsewhere. -/
def Obligations.StepCommandOwesStep : Prop :=
  decodeHost 0x00000009#32 = .ok .step ∧ ∀ s : State,
    (s.mode = modeAsync → exec .step s = .next { s with eocPend := true, lastResult := 0#4, seq := .idle })
    ∧ (s.mode ≠ modeAsync → exec .step s = .next { s with lastResult := 2#4, err := s.err ||| 0x02#8, seq := .idle })

/-- R142: an ILLEGAL command word sets ERR[4] and LAST_RESULT = 5 and changes nothing else, as a CMD write and as a
whole step. -/
def Obligations.IllegalWordOnlyReports : Prop :=
  (∀ (s : State) (w : Word) (e : DecodeError), s.seq = .idle → decodeHost w = .error e →
    commandWrite false w s = .next { s with lastResult := 5#4, err := s.err ||| 0x10#8 })
  ∧ (∀ (s : State) (w : Nat) (e : DecodeError), s.cfg.wf = true → s.eocPend = false →
    decodeHost (BitVec.ofNat 32 w) = .error e →
    step (s.withFetchWord 32 w) = .next { s with lastResult := 5#4, err := s.err ||| 0x10#8, seq := .idle })

/-- R69, R70: a sensor command byte is one write transaction to `CTRL_REG`; nothing else of the BCP changes; the default
`CMD_TEMP`. -/
def Obligations.StartCommandsWriteOneByte : Prop :=
  Config.default.cmdTemp = 0x2E#8 ∧ ∀ s : State,
    (∃ ok as, exec .cmdTemp s = .next { s with
        history := s.history ++ [startEvent s.cfg s.cfg.cmdTemp ok], answers := as, draws := s.draws + 1 })
    ∧ (∀ o : BitVec 2, ∃ ok as, exec (.cmdPres o) s = .next { s with
        history := s.history ++ [startEvent s.cfg (presByte s.cfg o) ok], answers := as, draws := s.draws + 1 })
    ∧ (∀ rest, s.answers = .ack :: rest →
        exec .cmdTemp s = .next { s with
          history := s.history ++ [startEvent s.cfg s.cfg.cmdTemp true], answers := rest, draws := s.draws + 1 }
        ∧ ∀ o : BitVec 2, exec (.cmdPres o) s = .next { s with
          history := s.history ++ [startEvent s.cfg (presByte s.cfg o) true],
          answers := rest, draws := s.draws + 1 })

/-! ### Calibration -/

/-- R79: once CAL_VALID = 1 the load is done at once with no calibration read, in LOAD_CAL, INIT_SYNC and INIT_ASYNC. -/
def Obligations.LoadIsIdempotent : Prop :=
  ∀ s : State, s.calValid = true →
    exec .loadCal s = .next { s with lastResult := 0#4, seq := .idle }
    ∧ (s.mode ≠ modeAsync → exec .initSync s = .next { s with mode := modeSync, lastResult := 0#4, seq := .idle })
    ∧ (s.mode ≠ modeSync → s.inputs = [] → ∀ rest,
        (s.answers = .ack :: rest → exec .initAsync s = .next { s with
          mode := modeAsync, astate := awaitingTemperature, eocPend := false, lastResult := 0#4, seq := .idle,
          history := s.history ++ [startEvent s.cfg s.cfg.cmdTemp true], answers := rest, draws := s.draws + 1 })
        ∧ (s.answers = .fail :: rest → exec .initAsync s = .next { s with
          mode := modeAsync, astate := awaitingTemperature, eocPend := false, lastResult := 1#4,
          err := s.err ||| 0x01#8, seq := .idle,
          history := s.history ++ [startEvent s.cfg s.cfg.cmdTemp false], answers := rest, draws := s.draws + 1 }))

/-- R76, R77, R52: LOAD_CAL from an unloaded state: 22 reads in ascending order, big-endian coefficients, one commit. What
the shadow registers hold afterwards is not said (R40). -/
def Obligations.LoadCalLoads : Prop :=
  ∀ (s : State) (hi lo : Fin 11 → Byte) (rest : List Answer), s.inputs = [] → s.calValid = false →
    s.answers = readAnswers (calReads s.cfg hi lo) ++ rest →
    ∃ shadow : Vector Half 11, exec .loadCal s = .next { s with
      cal := calOf hi lo, calShadow := shadow, calValid := true, lastResult := 0#4, seq := .idle,
      history := s.history ++ readEvents s.cfg (calReads s.cfg hi lo), answers := rest, draws := s.draws + 22 }

/-- R84: INIT_SYNC from an unloaded state loads and selects synchronous mode; in async mode it is a mode misuse with no
bus event. -/
def Obligations.InitSyncLoadsAndSelects : Prop :=
  (∀ (s : State) (hi lo : Fin 11 → Byte) (rest : List Answer), s.inputs = [] → s.calValid = false →
    s.mode ≠ modeAsync → s.answers = readAnswers (calReads s.cfg hi lo) ++ rest →
    ∃ shadow : Vector Half 11, exec .initSync s = .next { s with
      mode := modeSync, cal := calOf hi lo, calShadow := shadow, calValid := true, lastResult := 0#4,
      seq := .idle, history := s.history ++ readEvents s.cfg (calReads s.cfg hi lo), answers := rest,
      draws := s.draws + 22 })
  ∧ (∀ s : State, s.mode = modeAsync →
    exec .initSync s = .next { s with lastResult := 2#4, err := s.err ||| 0x02#8, seq := .idle })

/-- R125: INIT_ASYNC from an unloaded state loads, selects asynchronous mode and starts a temperature conversion; in
sync mode it is a mode misuse with no bus event. -/
def Obligations.InitAsyncLoadsAndStarts : Prop :=
  (∀ (s : State) (hi lo : Fin 11 → Byte) (rest : List Answer), s.inputs = [] → s.calValid = false →
    s.mode ≠ modeSync → s.answers = readAnswers (calReads s.cfg hi lo) ++ .ack :: rest →
    ∃ shadow : Vector Half 11, exec .initAsync s = .next { s with
      mode := modeAsync, astate := awaitingTemperature, eocPend := false,
      cal := calOf hi lo, calShadow := shadow, calValid := true, lastResult := 0#4, seq := .idle,
      history := s.history ++ readEvents s.cfg (calReads s.cfg hi lo) ++ [startEvent s.cfg s.cfg.cmdTemp true],
      answers := rest, draws := s.draws + 23 })
  ∧ (∀ s : State, s.mode = modeSync →
    exec .initAsync s = .next { s with lastResult := 2#4, err := s.err ||| 0x02#8, seq := .idle })

/-- R80, R146: a load whose read number n (of 22, from 0) fails stops there, leaves CAL and CAL_VALID, and raises COMM in
the calling command; MODE and ASTATE stay. -/
def Obligations.FailedLoadLeavesCal : Prop :=
  ∀ (s : State) (hi lo : Fin 11 → Byte) (n : Nat) (x : Nat × Byte) (rest : List Answer), s.inputs = [] →
    s.calValid = false → (calReads s.cfg hi lo)[n]? = some x →
    s.answers = readAnswers ((calReads s.cfg hi lo).take n) ++ .fail :: rest →
    ∃ shadow : Vector Half 11,
      let t : State := { s with
        calShadow := shadow, lastResult := 1#4, err := s.err ||| 0x01#8, seq := .idle,
        history := s.history ++ readEvents s.cfg ((calReads s.cfg hi lo).take n) ++ [rdFailEvent s.cfg x.1],
        answers := rest, draws := s.draws + n + 1 }
      exec .loadCal s = .next t
      ∧ (s.mode ≠ modeAsync → exec .initSync s = .next t)
      ∧ (s.mode ≠ modeSync → exec .initAsync s = .next t)

/-- The frame of the three loading commands, for any inputs but reset and refused accesses and any answers: each completes;
once CAL_VALID = 1 they leave CAL; an error of the load leaves CAL, CAL_VALID, MODE and ASTATE, and an error of the start
command of INIT_ASYNC leaves MODE = ASYNC, ASTATE = 00 and the loaded coefficients; no ERR bits but COMM, MODE and BUSY
become 1; nothing of the data path changes. EOC_PREV and EOC_PEND change by the edge detector in the cycles used up;
INIT_ASYNC drops, when it selects the mode, what was owed before, and an edge after that owes a STEP (R76, R84, R125,
R149). -/
def Obligations.LoadersFrame : Prop :=
  ∀ s : State, NoReset s → Admitted s →
    (∃ t, exec .loadCal s = .next t
      ∧ t = { busyChange s t with
          cal := t.cal, calValid := t.calValid, calShadow := t.calShadow, seq := t.seq, lastResult := t.lastResult,
          history := t.history, answers := t.answers, draws := t.draws }
      ∧ NewErrWithin 0x41#8 s t ∧ EocFollows s t ∧ (s.calValid = true → t.cal = s.cal)
      ∧ (t.lastResult = 0#4 ∧ t.calValid = true
          ∨ t.lastResult = 1#4 ∧ t.cal = s.cal ∧ t.calValid = s.calValid ∧ t.err.getLsbD 0 = true))
    ∧ (∃ t, exec .initSync s = .next t
      ∧ t = { busyChange s t with
          cal := t.cal, calValid := t.calValid, calShadow := t.calShadow, seq := t.seq, lastResult := t.lastResult,
          mode := t.mode, history := t.history, answers := t.answers, draws := t.draws }
      ∧ NewErrWithin 0x43#8 s t ∧ EocFollows s t ∧ (s.calValid = true → t.cal = s.cal)
      ∧ (t.lastResult = 0#4 ∧ t.mode = modeSync ∧ t.calValid = true
          ∨ t.lastResult ≠ 0#4 ∧ t.mode = s.mode ∧ t.cal = s.cal ∧ t.calValid = s.calValid))
    ∧ (∃ t, exec .initAsync s = .next t
      ∧ t = { busyChange s t with
          cal := t.cal, calValid := t.calValid, calShadow := t.calShadow, seq := t.seq, lastResult := t.lastResult,
          mode := t.mode, astate := t.astate, history := t.history, answers := t.answers, draws := t.draws }
      ∧ NewErrWithin 0x43#8 s t ∧ (s.calValid = true → t.cal = s.cal)
      ∧ ((t.lastResult = 0#4 ∨ t.lastResult = 1#4 ∧ t.err.getLsbD 0 = true)
            ∧ t.mode = modeAsync ∧ t.astate = awaitingTemperature ∧ t.calValid = true
            ∧ (∃ u, EocFollows s u ∧ (s.calValid = true → u = s)
              ∧ EocFollows { u with mode := modeAsync, eocPend := false } t)
          ∨ t.lastResult ≠ 0#4 ∧ t.mode = s.mode ∧ t.astate = s.astate ∧ t.cal = s.cal ∧ t.calValid = s.calValid
            ∧ EocFollows s t))

/-! ### Synchronous acquisition -/

/-- R85, R147: READ_UT and READ_UP fail explicitly outside sync mode, with any inputs: no bus event, no register
written. -/
def Obligations.SyncGuardFailsExplicitly : Prop :=
  ∀ (s : State) (i : Instr), i = .readUt ∨ i = .readUp →
    (s.mode = modeAsync → exec i s = .next { s with lastResult := 2#4, err := s.err ||| 0x02#8, seq := .idle })
    ∧ (s.mode = modeUninit → exec i s = .next { s with lastResult := 3#4, err := s.err ||| 0x04#8, seq := .idle })

/-- R86 to R88, R93, R146: READ_UT in sync mode, when all transactions complete and when the first, second or third
fails. -/
def Obligations.ReadUtResult : Prop :=
  ∀ (s : State) (msb lsb : Byte) (rest : List Answer), s.inputs = [] → s.mode = modeSync →
    (s.answers = .ack :: .data (resultReg s.cfg 0) msb :: .data (resultReg s.cfg 1) lsb :: rest →
      exec .readUt s = .next { s with
        utReg := msb ++ lsb, lastResult := 0#4, seq := .idle, waitCnt := 0,
        history := s.history ++ [startEvent s.cfg s.cfg.cmdTemp true, .wait 4500,
          rdEvent s.cfg (resultReg s.cfg 0) msb, rdEvent s.cfg (resultReg s.cfg 1) lsb],
        answers := rest, draws := s.draws + 3 })
    ∧ (s.answers = .fail :: rest →
      exec .readUt s = .next { s with
        lastResult := 1#4, err := s.err ||| 0x01#8, seq := .idle,
        history := s.history ++ [startEvent s.cfg s.cfg.cmdTemp false], answers := rest, draws := s.draws + 1 })
    ∧ (s.answers = .ack :: .fail :: rest →
      exec .readUt s = .next { s with
        lastResult := 1#4, err := s.err ||| 0x01#8, seq := .idle, waitCnt := 0,
        history := s.history ++ [startEvent s.cfg s.cfg.cmdTemp true, .wait 4500,
          rdFailEvent s.cfg (resultReg s.cfg 0)],
        answers := rest, draws := s.draws + 2 })
    ∧ (s.answers = .ack :: .data (resultReg s.cfg 0) msb :: .fail :: rest →
      exec .readUt s = .next { s with
        lastResult := 1#4, err := s.err ||| 0x01#8, seq := .idle, waitCnt := 0,
        history := s.history ++ [startEvent s.cfg s.cfg.cmdTemp true, .wait 4500,
          rdEvent s.cfg (resultReg s.cfg 0) msb, rdFailEvent s.cfg (resultReg s.cfg 1)],
        answers := rest, draws := s.draws + 3 })

/-- R89 to R92, R93, R146: READ_UP in sync mode, when all transactions complete and when each of the four fails. -/
def Obligations.ReadUpResult : Prop :=
  ∀ (s : State) (msb lsb xlsb : Byte) (rest : List Answer), s.inputs = [] → s.mode = modeSync →
    (s.answers = .ack :: .data (resultReg s.cfg 0) msb :: .data (resultReg s.cfg 1) lsb
        :: .data (resultReg s.cfg 2) xlsb :: rest →
      exec .readUp s = .next { s with
        upReg := ((msb ++ lsb ++ xlsb).setWidth 32) >>> (8 - s.oss.toNat), lastResult := 0#4, seq := .idle,
        waitCnt := 0,
        history := s.history ++ [startEvent s.cfg (presByte s.cfg s.oss) true, .wait (presWaitUs s.oss),
          rdEvent s.cfg (resultReg s.cfg 0) msb, rdEvent s.cfg (resultReg s.cfg 1) lsb,
          rdEvent s.cfg (resultReg s.cfg 2) xlsb],
        answers := rest, draws := s.draws + 4 })
    ∧ (s.answers = .fail :: rest →
      exec .readUp s = .next { s with
        lastResult := 1#4, err := s.err ||| 0x01#8, seq := .idle,
        history := s.history ++ [startEvent s.cfg (presByte s.cfg s.oss) false],
        answers := rest, draws := s.draws + 1 })
    ∧ (s.answers = .ack :: .fail :: rest →
      exec .readUp s = .next { s with
        lastResult := 1#4, err := s.err ||| 0x01#8, seq := .idle, waitCnt := 0,
        history := s.history ++ [startEvent s.cfg (presByte s.cfg s.oss) true, .wait (presWaitUs s.oss),
          rdFailEvent s.cfg (resultReg s.cfg 0)],
        answers := rest, draws := s.draws + 2 })
    ∧ (s.answers = .ack :: .data (resultReg s.cfg 0) msb :: .fail :: rest →
      exec .readUp s = .next { s with
        lastResult := 1#4, err := s.err ||| 0x01#8, seq := .idle, waitCnt := 0,
        history := s.history ++ [startEvent s.cfg (presByte s.cfg s.oss) true, .wait (presWaitUs s.oss),
          rdEvent s.cfg (resultReg s.cfg 0) msb, rdFailEvent s.cfg (resultReg s.cfg 1)],
        answers := rest, draws := s.draws + 3 })
    ∧ (s.answers = .ack :: .data (resultReg s.cfg 0) msb :: .data (resultReg s.cfg 1) lsb :: .fail :: rest →
      exec .readUp s = .next { s with
        lastResult := 1#4, err := s.err ||| 0x01#8, seq := .idle, waitCnt := 0,
        history := s.history ++ [startEvent s.cfg (presByte s.cfg s.oss) true, .wait (presWaitUs s.oss),
          rdEvent s.cfg (resultReg s.cfg 0) msb, rdEvent s.cfg (resultReg s.cfg 1) lsb,
          rdFailEvent s.cfg (resultReg s.cfg 2)],
        answers := rest, draws := s.draws + 4 })
    ∧ presWaitUs 0 = 4500 ∧ presWaitUs 1 = 7500 ∧ presWaitUs 2 = 13500 ∧ presWaitUs 3 = 25500

/-- R59, R145, R93: host accesses and `eoc` edges in the cycles inside READ_UT and READ_UP, any of them but reset and an
access that R46 refuses, do not disturb the operation: same events, same result, and OK. -/
def Obligations.SyncReadsAreUndisturbed : Prop :=
  ∀ (s : State) (msb lsb xlsb : Byte) (rest : List Answer), NoReset s → Admitted s → s.mode = modeSync →
    (s.answers = .ack :: .data (resultReg s.cfg 0) msb :: .data (resultReg s.cfg 1) lsb :: rest →
      ∃ t, exec .readUt s = .next t ∧ t.utReg = half msb lsb ∧ t.lastResult = 0#4 ∧ t.seq = .idle
        ∧ t.answers = rest
        ∧ t.history = s.history ++ [startEvent s.cfg s.cfg.cmdTemp true, .wait 4500,
            rdEvent s.cfg (resultReg s.cfg 0) msb, rdEvent s.cfg (resultReg s.cfg 1) lsb])
    ∧ (s.answers = .ack :: .data (resultReg s.cfg 0) msb :: .data (resultReg s.cfg 1) lsb
          :: .data (resultReg s.cfg 2) xlsb :: rest →
      ∃ t, exec .readUp s = .next t ∧ t.upReg = rawPressure msb lsb xlsb s.oss ∧ t.lastResult = 0#4
        ∧ t.seq = .idle ∧ t.answers = rest
        ∧ t.history = s.history ++ [startEvent s.cfg (presByte s.cfg s.oss) true, .wait (presWaitUs s.oss),
            rdEvent s.cfg (resultReg s.cfg 0) msb, rdEvent s.cfg (resultReg s.cfg 1) lsb,
            rdEvent s.cfg (resultReg s.cfg 2) xlsb])

/-- The frame of READ_UT, READ_UP and COMPENSATE, for any inputs but reset and refused accesses and any answers: each
completes; the destination registers change only in success; an error leaves them; the ERR bits that become 1 are those of
the command's own errors and BUSY; EOC_PREV and EOC_PEND change by the edge detector in the cycles used up, so a rising edge
while BUSY = 1 owes a STEP in async mode and nothing in another mode (R86, R89, R96, R149). -/
def Obligations.SyncCommandsFrame : Prop :=
  ∀ s : State, NoReset s → Admitted s →
    (∃ t, exec .readUt s = .next t
      ∧ t = { busyChange s t with
          utReg := t.utReg, seq := t.seq, waitCnt := t.waitCnt, lastResult := t.lastResult,
          history := t.history, answers := t.answers, draws := t.draws }
      ∧ NewErrWithin 0x47#8 s t ∧ EocFollows s t
      ∧ (t.lastResult ≠ 0#4 → t.utReg = s.utReg))
    ∧ (∃ t, exec .readUp s = .next t
      ∧ t = { busyChange s t with
          upReg := t.upReg, seq := t.seq, waitCnt := t.waitCnt, lastResult := t.lastResult,
          history := t.history, answers := t.answers, draws := t.draws }
      ∧ NewErrWithin 0x47#8 s t ∧ EocFollows s t
      ∧ (t.lastResult ≠ 0#4 → t.upReg = s.upReg))
    ∧ (∃ t, exec .compensate s = .next t
      ∧ t = { busyChange s t with
          tReg := t.tReg, pReg := t.pReg, resValid := t.resValid, seq := t.seq, lastResult := t.lastResult }
      ∧ NewErrWithin 0x4C#8 s t ∧ EocFollows s t
      ∧ (t.lastResult ≠ 0#4 → t.tReg = s.tReg ∧ t.pReg = s.pReg))

/-! ### Compensation -/

/-- R96: COMPENSATE, in its three outcomes, with any cycles inside it but reset and refused accesses: T_REG, P_REG and
RES_VALID are a function of CAL, UT_REG, UP_REG and OSS as they are at its start. With a quiet environment nothing else
changes. -/
def Obligations.CompensateResult : Prop :=
  ∀ s : State,
    (s.calValid = false →
      exec .compensate s = .next { s with lastResult := 3#4, err := s.err ||| 0x04#8, seq := .idle })
    ∧ (s.calValid = true → comp s.cal s.utReg s.upReg s.oss = none →
      (NoReset s → Admitted s → ∃ t, exec .compensate s = .next t ∧ t.resValid = false ∧ t.lastResult = 4#4
        ∧ t.err.getLsbD 3 = true ∧ t.seq = .idle ∧ t.tReg = s.tReg ∧ t.pReg = s.pReg ∧ t.history = s.history)
      ∧ (s.inputs = [] → exec .compensate s = .next { s with
          resValid := false, lastResult := 4#4, err := s.err ||| 0x08#8, seq := .idle }))
    ∧ (∀ T p : Word, s.calValid = true → comp s.cal s.utReg s.upReg s.oss = some (T, p) →
      (NoReset s → Admitted s → ∃ t, exec .compensate s = .next t ∧ t.tReg = T ∧ t.pReg = p ∧ t.resValid = true
        ∧ t.lastResult = 0#4 ∧ t.seq = .idle ∧ t.history = s.history)
      ∧ (s.inputs = [] → exec .compensate s = .next { s with
          tReg := T, pReg := p, resValid := true, lastResult := 0#4, seq := .idle }))

/-- R117, R12: `comp` is the listing, written here with Lean's own bit-vector operators in place of the operators that
R12 defines by integers. -/
def Obligations.CompIsListing : Prop :=
  ∀ (cal : Vector Half 11) (ut : Half) (up : Word) (oss : BitVec 2),
    comp cal ut up oss =
      (let ac1 := cal[0].signExtend 32; let ac2 := cal[1].signExtend 32; let ac3 := cal[2].signExtend 32
       let ac4 := cal[3].signExtend 32; let ac5 := cal[4].signExtend 32; let ac6 := cal[5].signExtend 32
       let b1 := cal[6].signExtend 32; let b2 := cal[7].signExtend 32; let mc := cal[9].signExtend 32
       let md := cal[10].signExtend 32
       let x1 := ((ut.signExtend 32 - ac6) * ac5).sshiftRight 15
       let d := x1 + md
       if d = 0#32 then none
       else
         let b5 := x1 + (mc <<< 11).sdiv d
         let t := (b5 + 8#32).sshiftRight 4
         let b6 := b5 - 4000#32
         let sq := (b6 * b6).sshiftRight 12
         let x3 := (b2 * sq).sshiftRight 11 + (ac2 * b6).sshiftRight 11
         let b3 := (((ac1 * 4#32 + x3) <<< oss.toNat) + 2#32).sshiftRight 2
         let x3' := ((ac3 * b6).sshiftRight 13 + (b1 * sq).sshiftRight 16 + 2#32).sshiftRight 2
         let b4 := (ac4 * (x3' + 32768#32)) >>> 15
         let b7 := (up - b3) * (50000#32 >>> oss.toNat)
         if b4 = 0#32 then none
         else
           let p := if b7 < 0x80000000#32 then (b7 <<< 1) / b4 else (b7 / b4) <<< 1
           let q := p.sshiftRight 8
           let y1 := (q * q * 3038#32).sshiftRight 16
           let y2 := (0xFFFFE343#32 * p).sshiftRight 16
           some (t, p + (y1 + y2 + 3791#32).sshiftRight 4))

/-- R98: step C1 is exact: no input overflows, and a negative product rounds toward −∞. -/
def Obligations.FirstTemperatureTermExact : Prop :=
  ∀ (cal : Vector Half 11) (ut : Half),
    compX1 cal ut = asr32 (mul32 (sub32 (ut.signExtend 32) (coef cal 5)) (coef cal 4)) 15
    ∧ (compX1 cal ut).toInt = ((ut.toInt - cal[5].toInt) * cal[4].toInt).fdiv (2 ^ 15)
    ∧ asr32 (BitVec.ofInt 32 (-1)) 15 = BitVec.ofInt 32 (-1)

/-- R99: step C2: its divisor, DIV0 where it is zero, and on every other the exact quotient: the dividend is MC × 2048
and the division never overflows. -/
def Obligations.SecondTemperatureTermExact : Prop :=
  ∀ (cal : Vector Half 11) (ut : Half),
    compDivisor cal ut = add32 (compX1 cal ut) (coef cal 10)
    ∧ compX2 cal ut = sdiv32 (shl32 (coef cal 9) 11) (compDivisor cal ut)
    ∧ (shl32 (coef cal 9) 11).toInt = cal[9].toInt * 2048
    ∧ (compDivisor cal ut = 0#32 → ∀ (up : Word) (oss : BitVec 2), comp cal ut up oss = none)
    ∧ (compDivisor cal ut ≠ 0#32 →
        (compX2 cal ut).toInt = (cal[9].toInt * 2048).tdiv (compDivisor cal ut).toInt)

/-- R111: B4 is the unsigned product shifted right by 15, lies in [0, 2^17 − 1], and is zero exactly when the product is
below 32768, as for AC4 = 0 and for X3 = −32768. -/
def Obligations.PressureScaleRange : Prop :=
  ∀ (cal : Vector Half 11) (b6 : Word),
    (compB4 cal b6).toNat
        = (coef cal 3).toNat * (((compX3b cal b6).toNat + 32768) % 2 ^ 32) % 2 ^ 32 / 2 ^ 15
    ∧ (compB4 cal b6).toNat < 2 ^ 17
    ∧ (compB4 cal b6 = 0#32 ↔ (mul32 (coef cal 3) (add32 (compX3b cal b6) 32768#32)).toNat < 32768)
    ∧ (cal[3] = 0#16 → compB4 cal b6 = 0#32)
    ∧ ((compX3b cal b6).toInt = -32768 → compB4 cal b6 = 0#32)

/-- R113: step C16: DIV0 where B4 = 0; else in the unsigned readings: for a numerator below 2^31 the doubled numerator is
divided, for any other the quotient is doubled and its low bit is 0. -/
def Obligations.PressureQuotientUnsigned : Prop :=
  (∀ (cal : Vector Half 11) (ut : Half) (up : Word) (oss : BitVec 2),
    compB4 cal (compB6 (compB5 cal ut)) = 0#32 → comp cal ut up oss = none)
  ∧ (∀ b7 b4 : Word, b4 ≠ 0#32 →
    (b7.toNat < 2 ^ 31 → (compQuotient b7 b4).toNat = 2 * b7.toNat / b4.toNat)
    ∧ (2 ^ 31 ≤ b7.toNat → (compQuotient b7 b4).toNat = 2 * (b7.toNat / b4.toNat) % 2 ^ 32
        ∧ (compQuotient b7 b4).getLsbD 0 = false))

/-- R82: no step of the compensation reads MB. -/
def Obligations.CompensationIgnoresMb : Prop :=
  ∀ (cal : Vector Half 11) (x : Half) (ut : Half) (up : Word) (oss : BitVec 2),
    comp (cal.set 8 x) ut up oss = comp cal ut up oss

/-- R90, R91: the raw pressure is the 24-bit code divided by 2^(8 − o), in [0, 2^(16+o) − 1], and a logical and an
arithmetic shift agree. -/
def Obligations.RawPressureRange : Prop :=
  ∀ (msb lsb xlsb : Byte) (o : BitVec 2),
    (rawPressure msb lsb xlsb o).toNat
        = (msb.toNat * 65536 + lsb.toNat * 256 + xlsb.toNat) / 2 ^ (8 - o.toNat)
    ∧ (rawPressure msb lsb xlsb o).toNat < 2 ^ (16 + o.toNat)
    ∧ rawPressure msb lsb xlsb o = asr32 ((raw24 msb lsb xlsb).setWidth 32) (8 - o.toNat)

/-! ### The asynchronous state machine -/

/-- R128, R131: StageTemperature when all transactions complete, and when each of the three fails. -/
def Obligations.StageTemperatureOutcomes : Prop :=
  ∀ (s : State) (msb lsb : Byte) (rest : List Answer), s.inputs = [] → s.astate = awaitingTemperature →
    (s.answers = .data (resultReg s.cfg 0) msb :: .data (resultReg s.cfg 1) lsb :: .ack :: rest →
      asyncStep s = .next { s with
        eocPend := false, utBuf := half msb lsb, astate := awaitingPressure, seq := .idle,
        history := s.history ++ [rdEvent s.cfg (resultReg s.cfg 0) msb, rdEvent s.cfg (resultReg s.cfg 1) lsb,
          startEvent s.cfg (presByte s.cfg s.oss) true],
        answers := rest, draws := s.draws + 3 })
    ∧ (s.answers = .fail :: rest →
      asyncStep s = .next { s with
        eocPend := false, err := s.err ||| 0x01#8, seq := .idle,
        history := s.history ++ [rdFailEvent s.cfg (resultReg s.cfg 0), .diag .commError 0#8],
        answers := rest, draws := s.draws + 1 })
    ∧ (s.answers = .data (resultReg s.cfg 0) msb :: .fail :: rest →
      asyncStep s = .next { s with
        eocPend := false, err := s.err ||| 0x01#8, seq := .idle,
        history := s.history ++ [rdEvent s.cfg (resultReg s.cfg 0) msb, rdFailEvent s.cfg (resultReg s.cfg 1),
          .diag .commError 0#8],
        answers := rest, draws := s.draws + 2 })
    ∧ (s.answers = .data (resultReg s.cfg 0) msb :: .data (resultReg s.cfg 1) lsb :: .fail :: rest →
      asyncStep s = .next { s with
        eocPend := false, utBuf := half msb lsb, err := s.err ||| 0x01#8, seq := .idle,
        history := s.history ++ [rdEvent s.cfg (resultReg s.cfg 0) msb, rdEvent s.cfg (resultReg s.cfg 1) lsb,
          startEvent s.cfg (presByte s.cfg s.oss) false, .diag .commError 0#8],
        answers := rest, draws := s.draws + 3 })

/-- R129, R132: StagePressure when all transactions complete: with a result, which is stored and pulsed on the enabled
channels in order, and with a zero divisor. -/
def Obligations.StagePressureOutcomes : Prop :=
  ∀ (s : State) (msb lsb xlsb : Byte) (rest : List Answer), s.inputs = [] → s.astate = awaitingPressure →
    s.answers = .data (resultReg s.cfg 0) msb :: .data (resultReg s.cfg 1) lsb
      :: .data (resultReg s.cfg 2) xlsb :: .ack :: rest →
    let up := rawPressure msb lsb xlsb s.oss
    let reads := [rdEvent s.cfg (resultReg s.cfg 0) msb, rdEvent s.cfg (resultReg s.cfg 1) lsb,
      rdEvent s.cfg (resultReg s.cfg 2) xlsb]
    (∀ r : Word × Word, comp s.cal s.utBuf up s.oss = some r →
      asyncStep s = .next { s with
        eocPend := false, utReg := s.utBuf, upReg := up, tReg := r.1, pReg := r.2, resValid := true,
        astate := awaitingTemperature, seq := .idle,
        history := s.history ++ reads ++ pulses s.cbEn s.utBuf up r ++ [startEvent s.cfg s.cfg.cmdTemp true],
        answers := rest, draws := s.draws + 4 })
    ∧ (comp s.cal s.utBuf up s.oss = none →
      asyncStep s = .next { s with
        eocPend := false, utReg := s.utBuf, upReg := up, resValid := false, err := s.err ||| 0x08#8,
        astate := awaitingTemperature, seq := .idle,
        history := s.history ++ reads ++ [startEvent s.cfg s.cfg.cmdTemp true],
        answers := rest, draws := s.draws + 4 })

/-- R129, R131, R132, R134: StagePressure with a failed transaction. A failed read changes no data register; a failed final
start command comes after the results were stored and pulsed, or after the zero divisor was recorded. -/
def Obligations.StagePressureFailures : Prop :=
  ∀ (s : State) (msb lsb xlsb : Byte) (rest : List Answer), s.inputs = [] → s.astate = awaitingPressure →
    let up := rawPressure msb lsb xlsb s.oss
    let reads := [rdEvent s.cfg (resultReg s.cfg 0) msb, rdEvent s.cfg (resultReg s.cfg 1) lsb,
      rdEvent s.cfg (resultReg s.cfg 2) xlsb]
    (s.answers = .fail :: rest →
      asyncStep s = .next { s with
        eocPend := false, err := s.err ||| 0x01#8, astate := awaitingTemperature, seq := .idle,
        history := s.history ++ [rdFailEvent s.cfg (resultReg s.cfg 0), .diag .commError 1#8],
        answers := rest, draws := s.draws + 1 })
    ∧ (s.answers = .data (resultReg s.cfg 0) msb :: .fail :: rest →
      asyncStep s = .next { s with
        eocPend := false, err := s.err ||| 0x01#8, astate := awaitingTemperature, seq := .idle,
        history := s.history ++ reads.take 1 ++ [rdFailEvent s.cfg (resultReg s.cfg 1), .diag .commError 1#8],
        answers := rest, draws := s.draws + 2 })
    ∧ (s.answers = .data (resultReg s.cfg 0) msb :: .data (resultReg s.cfg 1) lsb :: .fail :: rest →
      asyncStep s = .next { s with
        eocPend := false, err := s.err ||| 0x01#8, astate := awaitingTemperature, seq := .idle,
        history := s.history ++ reads.take 2 ++ [rdFailEvent s.cfg (resultReg s.cfg 2), .diag .commError 1#8],
        answers := rest, draws := s.draws + 3 })
    ∧ (s.answers = .data (resultReg s.cfg 0) msb :: .data (resultReg s.cfg 1) lsb
        :: .data (resultReg s.cfg 2) xlsb :: .fail :: rest →
      (∀ r : Word × Word, comp s.cal s.utBuf up s.oss = some r →
        asyncStep s = .next { s with
          eocPend := false, utReg := s.utBuf, upReg := up, tReg := r.1, pReg := r.2,
          resValid := true, err := s.err ||| 0x01#8, astate := awaitingTemperature, seq := .idle,
          history := s.history ++ reads ++ pulses s.cbEn s.utBuf up r
            ++ [startEvent s.cfg s.cfg.cmdTemp false, .diag .commError 1#8],
          answers := rest, draws := s.draws + 4 })
      ∧ (comp s.cal s.utBuf up s.oss = none →
        asyncStep s = .next { s with
          eocPend := false, utReg := s.utBuf, upReg := up, resValid := false, err := s.err ||| 0x09#8,
          astate := awaitingTemperature, seq := .idle,
          history := s.history ++ reads ++ [startEvent s.cfg s.cfg.cmdTemp false, .diag .commError 1#8],
          answers := rest, draws := s.draws + 4 }))

/-- R130, R148: StageInvalid, for either answer to its start command. That the value of Diag(CommError, CTRL_REG) is the
register's address in 8 bits is the model's choice where an address is wider (log entry 20). -/
def Obligations.StageInvalidRecovers : Prop :=
  ∀ (s : State) (rest : List Answer), s.inputs = [] → s.astate = 2#2 ∨ s.astate = 3#2 →
    (s.answers = .ack :: rest →
      asyncStep s = .next { s with
        eocPend := false, err := s.err ||| 0x80#8, astate := awaitingTemperature, seq := .idle,
        history := s.history ++ [.diag .invalidState (s.astate.setWidth 8), startEvent s.cfg s.cfg.cmdTemp true],
        answers := rest, draws := s.draws + 1 })
    ∧ (s.answers = .fail :: rest →
      asyncStep s = .next { s with
        eocPend := false, err := s.err ||| 0x81#8, astate := awaitingTemperature, seq := .idle,
        history := s.history ++ [.diag .invalidState (s.astate.setWidth 8), startEvent s.cfg s.cfg.cmdTemp false,
          .diag .commError (BitVec.ofNat 8 (controlReg s.cfg))],
        answers := rest, draws := s.draws + 1 })

/-- The frame of a STEP, for any inputs but reset and refused accesses and any answers: it completes; CAL, CAL_VALID, MODE,
OSS, CB_EN, LAST_RESULT and the wait counter are unchanged, no ERR bits but COMM, DIV0, BUSY and STATE become 1, BUSY is 0
at its end, and outside the pressure stage every data register is unchanged. The STEP that starts is owed no longer, and a
rising edge in any cycle of it owes the next one (R34, R126, R128 to R132, R149). -/
def Obligations.AsyncStepFrame : Prop :=
  ∀ s : State, NoReset s → Admitted s →
    ∃ t, asyncStep s = .next t ∧ t.seq = .idle
    ∧ t = { busyChange s t with
        seq := t.seq, astate := t.astate, utBuf := t.utBuf, utReg := t.utReg, upReg := t.upReg, tReg := t.tReg,
        pReg := t.pReg, resValid := t.resValid, history := t.history, answers := t.answers, draws := t.draws }
    ∧ NewErrWithin 0xC9#8 s t ∧ EocFollows { s with eocPend := false } t
    ∧ (s.astate ≠ awaitingPressure →
        t.utReg = s.utReg ∧ t.upReg = s.upReg ∧ t.tReg = s.tReg ∧ t.pReg = s.pReg ∧ t.resValid = s.resValid)
    ∧ (s.astate ≠ awaitingTemperature → t.utBuf = s.utBuf)

/-- R135, L1-4: from AwaitingTemperature with no failure and no zero divisor, one step goes to AwaitingPressure with no
pulse, and a second fires each enabled channel exactly once, in order, and returns. -/
def Obligations.TwoStepsMakeOneCycle : Prop :=
  ∀ (s : State) (m l p0 p1 p2 : Byte) (r : Word × Word) (rest : List Answer), s.cfg.wf = true → s.inputs = [] →
    s.seq = .idle → s.mode = modeAsync → s.astate = awaitingTemperature → s.eocPend = true →
    s.answers = .data (resultReg s.cfg 0) m :: .data (resultReg s.cfg 1) l :: .ack
      :: .data (resultReg s.cfg 0) p0 :: .data (resultReg s.cfg 1) p1 :: .data (resultReg s.cfg 2) p2 :: .ack :: rest →
    comp s.cal (half m l) (rawPressure p0 p1 p2 s.oss) s.oss = some r →
    ∃ a b : State, step s = .next a ∧ a.astate = awaitingPressure
      ∧ a.history.filter Event.isPulse = s.history.filter Event.isPulse
      ∧ step { a with eocPend := true } = .next b ∧ b.astate = awaitingTemperature
      ∧ b.history.filter Event.isPulse
          = s.history.filter Event.isPulse ++ pulses s.cbEn (half m l) (rawPressure p0 p1 p2 s.oss) r

/-- R95: with the same calibration, the same OSS and the same bytes, the sync sequence READ_UT, READ_UP, COMPENSATE and
an async cycle leave the same RES_VALID, and the same T_REG and P_REG where there is a result. -/
def Obligations.SyncAndAsyncAgree : Prop :=
  ∀ (s a : State) (m l p0 p1 p2 : Byte) (rest rest' : List Answer), s.inputs = [] → a.inputs = [] →
    s.calValid = true → s.cal = a.cal → s.oss = a.oss → s.mode = modeSync → a.astate = awaitingTemperature →
    s.answers = .ack :: .data (resultReg s.cfg 0) m :: .data (resultReg s.cfg 1) l
      :: .ack :: .data (resultReg s.cfg 0) p0 :: .data (resultReg s.cfg 1) p1 :: .data (resultReg s.cfg 2) p2
      :: rest →
    a.answers = .data (resultReg a.cfg 0) m :: .data (resultReg a.cfg 1) l
      :: .ack :: .data (resultReg a.cfg 0) p0 :: .data (resultReg a.cfg 1) p1 :: .data (resultReg a.cfg 2) p2
      :: .ack :: rest' →
    ∃ s1 s2 s3 a1 a2 : State, exec .readUt s = .next s1 ∧ exec .readUp s1 = .next s2 ∧ exec .compensate s2 = .next s3
      ∧ asyncStep a = .next a1 ∧ asyncStep a1 = .next a2
      ∧ s3.resValid = a2.resValid ∧ (s3.resValid = true → s3.tReg = a2.tReg ∧ s3.pReg = a2.pReg)

/-! ### Rules of the whole machine -/

/-- R58, R146: whatever a step does, with any inputs and any answers, it only adds events, and no bus transaction follows
a failed one. -/
def Obligations.FirstFailureEndsBusActivity : Prop :=
  ∀ s t : State, step s = .next t → ∃ es, t.history = s.history ++ es ∧ NoBusAfterFailure es

/-- R81, R20: once CAL_VALID = 1, no step without reset writes CAL or clears CAL_VALID. -/
def Obligations.CalibrationReadOnlyOnceLoaded : Prop :=
  ∀ s t : State, NoReset s → s.calValid = true → step s = .next t → t.cal = s.cal ∧ t.calValid = true

/-- R22: once a mode is chosen, no step without reset changes it. -/
def Obligations.ModeWrittenOnce : Prop :=
  ∀ s t : State, NoReset s → s.mode = modeSync ∨ s.mode = modeAsync → step s = .next t → t.mode = s.mode

/-- R35, R156: ERR bits are sticky: without reset and without a host write to ERR, a step clears none. -/
def Obligations.ErrBitsAreSticky : Prop :=
  ∀ s t : State, NoReset s → NoErrWrite s → step s = .next t → s.err &&& t.err = s.err

/-- R94, R136: no command pulses a channel; no step does outside async mode; a STEP pulses each channel at most once,
none that is not enabled, and none outside the pressure stage. -/
def Obligations.PulsesOnlyFromPressureStage : Prop :=
  (∀ (i : Instr) (s t : State), exec i s = .next t →
    ∃ es, t.history = s.history ++ es ∧ ∀ e ∈ es, e.isPulse = false)
  ∧ (∀ s t : State, s.mode ≠ modeAsync → step s = .next t →
    ∃ es, t.history = s.history ++ es ∧ ∀ e ∈ es, e.isPulse = false)
  ∧ (∀ s t : State, asyncStep s = .next t → ∃ es, t.history = s.history ++ es
      ∧ (es.filter Event.isTemp).length ≤ 1 ∧ (es.filter Event.isPress).length ≤ 1
      ∧ (es.filter Event.isAlt).length ≤ 1
      ∧ (s.cbEn.getLsbD 0 = false → ∀ e ∈ es, e.isTemp = false)
      ∧ (s.cbEn.getLsbD 1 = false → ∀ e ∈ es, e.isPress = false)
      ∧ (s.cbEn.getLsbD 2 = false → ∀ e ∈ es, e.isAlt = false)
      ∧ (s.astate ≠ awaitingPressure → ∀ e ∈ es, e.isPulse = false))

/-- R168: the counter's load covers the time asked for; a wait is one event and takes its number of cycles. That it takes
exactly that many, and that the cycles are those to come or none, are the model's choices (log entries 8 and 2). -/
def Obligations.WaitTakesItsCycles : Prop :=
  (∀ (cfg : Config) (us : Nat), us * cfg.clkHz ≤ waitTicks cfg us * 1000000
    ∧ waitTicks cfg us * 1000000 < us * cfg.clkHz + 1000000)
  ∧ (∀ (us : Nat) (s : State), NoReset s → Admitted s →
    ∃ t, runWait us s = .val () t ∧ t.inputs = s.inputs.drop (waitTicks s.cfg us) ∧ t.waitCnt = 0
      ∧ t.history = s.history ++ [.wait us])

/-- R119, R120, R122, R123, R124: the conversions whose results are exact: 150 is 15.0 °C, 101325 Pa is 1013.25 hPa, and
the altitude there is 0.0 m, and a zero of the factor's sign in feet, in both formats and for every finite feet factor. -/
def Obligations.SeaLevelAltitudeIsZero : Prop :=
  ∀ (f : FloatFormat) (neg : Bool) (ftPerM : Rat),
    pressureHPa f 101325#32 = .num false (101325 / 100) ∧ altitudeM f (pressureHPa f 101325#32) = .num false 0
    ∧ altitudeFt f (.num neg ftPerM) (pressureHPa f 101325#32) = .num neg 0 ∧ tempC f 150#32 = .num false 15
end

