-- ==== Sys2Proof/Laws/State.lean ====
section
/-! SUPPORT. One lemma per field per shared update of the state, each true by rfl. -/
namespace Sys2Proof.Machine

/-! ### pushEvent -/

@[simp] theorem pushEvent_cfg (e : Event) (s : State) : (pushEvent e s).cfg = s.cfg := rfl
@[simp] theorem pushEvent_cal (e : Event) (s : State) : (pushEvent e s).cal = s.cal := rfl
@[simp] theorem pushEvent_calValid (e : Event) (s : State) : (pushEvent e s).calValid = s.calValid := rfl
@[simp] theorem pushEvent_calShadow (e : Event) (s : State) : (pushEvent e s).calShadow = s.calShadow := rfl
@[simp] theorem pushEvent_seq (e : Event) (s : State) : (pushEvent e s).seq = s.seq := rfl
@[simp] theorem pushEvent_waitCnt (e : Event) (s : State) : (pushEvent e s).waitCnt = s.waitCnt := rfl
@[simp] theorem pushEvent_mode (e : Event) (s : State) : (pushEvent e s).mode = s.mode := rfl
@[simp] theorem pushEvent_oss (e : Event) (s : State) : (pushEvent e s).oss = s.oss := rfl
@[simp] theorem pushEvent_astate (e : Event) (s : State) : (pushEvent e s).astate = s.astate := rfl
@[simp] theorem pushEvent_utBuf (e : Event) (s : State) : (pushEvent e s).utBuf = s.utBuf := rfl
@[simp] theorem pushEvent_eocPrev (e : Event) (s : State) : (pushEvent e s).eocPrev = s.eocPrev := rfl
@[simp] theorem pushEvent_eocPend (e : Event) (s : State) : (pushEvent e s).eocPend = s.eocPend := rfl
@[simp] theorem pushEvent_cbEn (e : Event) (s : State) : (pushEvent e s).cbEn = s.cbEn := rfl
@[simp] theorem pushEvent_utReg (e : Event) (s : State) : (pushEvent e s).utReg = s.utReg := rfl
@[simp] theorem pushEvent_upReg (e : Event) (s : State) : (pushEvent e s).upReg = s.upReg := rfl
@[simp] theorem pushEvent_tReg (e : Event) (s : State) : (pushEvent e s).tReg = s.tReg := rfl
@[simp] theorem pushEvent_pReg (e : Event) (s : State) : (pushEvent e s).pReg = s.pReg := rfl
@[simp] theorem pushEvent_resValid (e : Event) (s : State) : (pushEvent e s).resValid = s.resValid := rfl
@[simp] theorem pushEvent_lastResult (e : Event) (s : State) : (pushEvent e s).lastResult = s.lastResult := rfl
@[simp] theorem pushEvent_err (e : Event) (s : State) : (pushEvent e s).err = s.err := rfl
@[simp] theorem pushEvent_history (e : Event) (s : State) : (pushEvent e s).history = s.history ++ [e] := rfl
@[simp] theorem pushEvent_reads (e : Event) (s : State) : (pushEvent e s).reads = s.reads := rfl
@[simp] theorem pushEvent_inputs (e : Event) (s : State) : (pushEvent e s).inputs = s.inputs := rfl
@[simp] theorem pushEvent_answers (e : Event) (s : State) : (pushEvent e s).answers = s.answers := rfl
@[simp] theorem pushEvent_draws (e : Event) (s : State) : (pushEvent e s).draws = s.draws := rfl

/-! ### finishOk -/

@[simp] theorem finishOk_cfg (s : State) : (finishOk s).cfg = s.cfg := rfl
@[simp] theorem finishOk_cal (s : State) : (finishOk s).cal = s.cal := rfl
@[simp] theorem finishOk_calValid (s : State) : (finishOk s).calValid = s.calValid := rfl
@[simp] theorem finishOk_calShadow (s : State) : (finishOk s).calShadow = s.calShadow := rfl
@[simp] theorem finishOk_seq (s : State) : (finishOk s).seq = .idle := rfl
@[simp] theorem finishOk_waitCnt (s : State) : (finishOk s).waitCnt = s.waitCnt := rfl
@[simp] theorem finishOk_mode (s : State) : (finishOk s).mode = s.mode := rfl
@[simp] theorem finishOk_oss (s : State) : (finishOk s).oss = s.oss := rfl
@[simp] theorem finishOk_astate (s : State) : (finishOk s).astate = s.astate := rfl
@[simp] theorem finishOk_utBuf (s : State) : (finishOk s).utBuf = s.utBuf := rfl
@[simp] theorem finishOk_eocPrev (s : State) : (finishOk s).eocPrev = s.eocPrev := rfl
@[simp] theorem finishOk_eocPend (s : State) : (finishOk s).eocPend = s.eocPend := rfl
@[simp] theorem finishOk_cbEn (s : State) : (finishOk s).cbEn = s.cbEn := rfl
@[simp] theorem finishOk_utReg (s : State) : (finishOk s).utReg = s.utReg := rfl
@[simp] theorem finishOk_upReg (s : State) : (finishOk s).upReg = s.upReg := rfl
@[simp] theorem finishOk_tReg (s : State) : (finishOk s).tReg = s.tReg := rfl
@[simp] theorem finishOk_pReg (s : State) : (finishOk s).pReg = s.pReg := rfl
@[simp] theorem finishOk_resValid (s : State) : (finishOk s).resValid = s.resValid := rfl
@[simp] theorem finishOk_lastResult (s : State) : (finishOk s).lastResult = codeOk := rfl
@[simp] theorem finishOk_err (s : State) : (finishOk s).err = s.err := rfl
@[simp] theorem finishOk_history (s : State) : (finishOk s).history = s.history := rfl
@[simp] theorem finishOk_reads (s : State) : (finishOk s).reads = s.reads := rfl
@[simp] theorem finishOk_inputs (s : State) : (finishOk s).inputs = s.inputs := rfl
@[simp] theorem finishOk_answers (s : State) : (finishOk s).answers = s.answers := rfl
@[simp] theorem finishOk_draws (s : State) : (finishOk s).draws = s.draws := rfl

/-! ### raise -/

@[simp] theorem raise_cfg (e : Err) (s : State) : (raise e s).cfg = s.cfg := rfl
@[simp] theorem raise_cal (e : Err) (s : State) : (raise e s).cal = s.cal := rfl
@[simp] theorem raise_calValid (e : Err) (s : State) : (raise e s).calValid = s.calValid := rfl
@[simp] theorem raise_calShadow (e : Err) (s : State) : (raise e s).calShadow = s.calShadow := rfl
@[simp] theorem raise_seq (e : Err) (s : State) : (raise e s).seq = .idle := rfl
@[simp] theorem raise_waitCnt (e : Err) (s : State) : (raise e s).waitCnt = s.waitCnt := rfl
@[simp] theorem raise_mode (e : Err) (s : State) : (raise e s).mode = s.mode := rfl
@[simp] theorem raise_oss (e : Err) (s : State) : (raise e s).oss = s.oss := rfl
@[simp] theorem raise_astate (e : Err) (s : State) : (raise e s).astate = s.astate := rfl
@[simp] theorem raise_utBuf (e : Err) (s : State) : (raise e s).utBuf = s.utBuf := rfl
@[simp] theorem raise_eocPrev (e : Err) (s : State) : (raise e s).eocPrev = s.eocPrev := rfl
@[simp] theorem raise_eocPend (e : Err) (s : State) : (raise e s).eocPend = s.eocPend := rfl
@[simp] theorem raise_cbEn (e : Err) (s : State) : (raise e s).cbEn = s.cbEn := rfl
@[simp] theorem raise_utReg (e : Err) (s : State) : (raise e s).utReg = s.utReg := rfl
@[simp] theorem raise_upReg (e : Err) (s : State) : (raise e s).upReg = s.upReg := rfl
@[simp] theorem raise_tReg (e : Err) (s : State) : (raise e s).tReg = s.tReg := rfl
@[simp] theorem raise_pReg (e : Err) (s : State) : (raise e s).pReg = s.pReg := rfl
@[simp] theorem raise_resValid (e : Err) (s : State) : (raise e s).resValid = s.resValid := rfl
@[simp] theorem raise_lastResult (e : Err) (s : State) : (raise e s).lastResult = errCode e := rfl
@[simp] theorem raise_err (e : Err) (s : State) : (raise e s).err = s.err ||| errMask e := rfl
@[simp] theorem raise_history (e : Err) (s : State) : (raise e s).history = s.history := rfl
@[simp] theorem raise_reads (e : Err) (s : State) : (raise e s).reads = s.reads := rfl
@[simp] theorem raise_inputs (e : Err) (s : State) : (raise e s).inputs = s.inputs := rfl
@[simp] theorem raise_answers (e : Err) (s : State) : (raise e s).answers = s.answers := rfl
@[simp] theorem raise_draws (e : Err) (s : State) : (raise e s).draws = s.draws := rfl

/-! ### begin -/

@[simp] theorem begin_cfg (s : State) : (begin s).cfg = s.cfg := rfl
@[simp] theorem begin_cal (s : State) : (begin s).cal = s.cal := rfl
@[simp] theorem begin_calValid (s : State) : (begin s).calValid = s.calValid := rfl
@[simp] theorem begin_calShadow (s : State) : (begin s).calShadow = s.calShadow := rfl
@[simp] theorem begin_seq (s : State) : (begin s).seq = .running := rfl
@[simp] theorem begin_waitCnt (s : State) : (begin s).waitCnt = s.waitCnt := rfl
@[simp] theorem begin_mode (s : State) : (begin s).mode = s.mode := rfl
@[simp] theorem begin_oss (s : State) : (begin s).oss = s.oss := rfl
@[simp] theorem begin_astate (s : State) : (begin s).astate = s.astate := rfl
@[simp] theorem begin_utBuf (s : State) : (begin s).utBuf = s.utBuf := rfl
@[simp] theorem begin_eocPrev (s : State) : (begin s).eocPrev = s.eocPrev := rfl
@[simp] theorem begin_eocPend (s : State) : (begin s).eocPend = s.eocPend := rfl
@[simp] theorem begin_cbEn (s : State) : (begin s).cbEn = s.cbEn := rfl
@[simp] theorem begin_utReg (s : State) : (begin s).utReg = s.utReg := rfl
@[simp] theorem begin_upReg (s : State) : (begin s).upReg = s.upReg := rfl
@[simp] theorem begin_tReg (s : State) : (begin s).tReg = s.tReg := rfl
@[simp] theorem begin_pReg (s : State) : (begin s).pReg = s.pReg := rfl
@[simp] theorem begin_resValid (s : State) : (begin s).resValid = s.resValid := rfl
@[simp] theorem begin_lastResult (s : State) : (begin s).lastResult = s.lastResult := rfl
@[simp] theorem begin_err (s : State) : (begin s).err = s.err := rfl
@[simp] theorem begin_history (s : State) : (begin s).history = s.history := rfl
@[simp] theorem begin_reads (s : State) : (begin s).reads = s.reads := rfl
@[simp] theorem begin_inputs (s : State) : (begin s).inputs = s.inputs := rfl
@[simp] theorem begin_answers (s : State) : (begin s).answers = s.answers := rfl
@[simp] theorem begin_draws (s : State) : (begin s).draws = s.draws := rfl

/-! ### setErr -/

@[simp] theorem setErr_cfg (m : BitVec 8) (s : State) : (setErr m s).cfg = s.cfg := rfl
@[simp] theorem setErr_cal (m : BitVec 8) (s : State) : (setErr m s).cal = s.cal := rfl
@[simp] theorem setErr_calValid (m : BitVec 8) (s : State) : (setErr m s).calValid = s.calValid := rfl
@[simp] theorem setErr_calShadow (m : BitVec 8) (s : State) : (setErr m s).calShadow = s.calShadow := rfl
@[simp] theorem setErr_seq (m : BitVec 8) (s : State) : (setErr m s).seq = s.seq := rfl
@[simp] theorem setErr_waitCnt (m : BitVec 8) (s : State) : (setErr m s).waitCnt = s.waitCnt := rfl
@[simp] theorem setErr_mode (m : BitVec 8) (s : State) : (setErr m s).mode = s.mode := rfl
@[simp] theorem setErr_oss (m : BitVec 8) (s : State) : (setErr m s).oss = s.oss := rfl
@[simp] theorem setErr_astate (m : BitVec 8) (s : State) : (setErr m s).astate = s.astate := rfl
@[simp] theorem setErr_utBuf (m : BitVec 8) (s : State) : (setErr m s).utBuf = s.utBuf := rfl
@[simp] theorem setErr_eocPrev (m : BitVec 8) (s : State) : (setErr m s).eocPrev = s.eocPrev := rfl
@[simp] theorem setErr_eocPend (m : BitVec 8) (s : State) : (setErr m s).eocPend = s.eocPend := rfl
@[simp] theorem setErr_cbEn (m : BitVec 8) (s : State) : (setErr m s).cbEn = s.cbEn := rfl
@[simp] theorem setErr_utReg (m : BitVec 8) (s : State) : (setErr m s).utReg = s.utReg := rfl
@[simp] theorem setErr_upReg (m : BitVec 8) (s : State) : (setErr m s).upReg = s.upReg := rfl
@[simp] theorem setErr_tReg (m : BitVec 8) (s : State) : (setErr m s).tReg = s.tReg := rfl
@[simp] theorem setErr_pReg (m : BitVec 8) (s : State) : (setErr m s).pReg = s.pReg := rfl
@[simp] theorem setErr_resValid (m : BitVec 8) (s : State) : (setErr m s).resValid = s.resValid := rfl
@[simp] theorem setErr_lastResult (m : BitVec 8) (s : State) : (setErr m s).lastResult = s.lastResult := rfl
@[simp] theorem setErr_err (m : BitVec 8) (s : State) : (setErr m s).err = s.err ||| m := rfl
@[simp] theorem setErr_history (m : BitVec 8) (s : State) : (setErr m s).history = s.history := rfl
@[simp] theorem setErr_reads (m : BitVec 8) (s : State) : (setErr m s).reads = s.reads := rfl
@[simp] theorem setErr_inputs (m : BitVec 8) (s : State) : (setErr m s).inputs = s.inputs := rfl
@[simp] theorem setErr_answers (m : BitVec 8) (s : State) : (setErr m s).answers = s.answers := rfl
@[simp] theorem setErr_draws (m : BitVec 8) (s : State) : (setErr m s).draws = s.draws := rfl

/-! ### clearErr -/

@[simp] theorem clearErr_cfg (w : Word) (s : State) : (clearErr w s).cfg = s.cfg := rfl
@[simp] theorem clearErr_cal (w : Word) (s : State) : (clearErr w s).cal = s.cal := rfl
@[simp] theorem clearErr_calValid (w : Word) (s : State) : (clearErr w s).calValid = s.calValid := rfl
@[simp] theorem clearErr_calShadow (w : Word) (s : State) : (clearErr w s).calShadow = s.calShadow := rfl
@[simp] theorem clearErr_seq (w : Word) (s : State) : (clearErr w s).seq = s.seq := rfl
@[simp] theorem clearErr_waitCnt (w : Word) (s : State) : (clearErr w s).waitCnt = s.waitCnt := rfl
@[simp] theorem clearErr_mode (w : Word) (s : State) : (clearErr w s).mode = s.mode := rfl
@[simp] theorem clearErr_oss (w : Word) (s : State) : (clearErr w s).oss = s.oss := rfl
@[simp] theorem clearErr_astate (w : Word) (s : State) : (clearErr w s).astate = s.astate := rfl
@[simp] theorem clearErr_utBuf (w : Word) (s : State) : (clearErr w s).utBuf = s.utBuf := rfl
@[simp] theorem clearErr_eocPrev (w : Word) (s : State) : (clearErr w s).eocPrev = s.eocPrev := rfl
@[simp] theorem clearErr_eocPend (w : Word) (s : State) : (clearErr w s).eocPend = s.eocPend := rfl
@[simp] theorem clearErr_cbEn (w : Word) (s : State) : (clearErr w s).cbEn = s.cbEn := rfl
@[simp] theorem clearErr_utReg (w : Word) (s : State) : (clearErr w s).utReg = s.utReg := rfl
@[simp] theorem clearErr_upReg (w : Word) (s : State) : (clearErr w s).upReg = s.upReg := rfl
@[simp] theorem clearErr_tReg (w : Word) (s : State) : (clearErr w s).tReg = s.tReg := rfl
@[simp] theorem clearErr_pReg (w : Word) (s : State) : (clearErr w s).pReg = s.pReg := rfl
@[simp] theorem clearErr_resValid (w : Word) (s : State) : (clearErr w s).resValid = s.resValid := rfl
@[simp] theorem clearErr_lastResult (w : Word) (s : State) : (clearErr w s).lastResult = s.lastResult := rfl
@[simp] theorem clearErr_err (w : Word) (s : State) : (clearErr w s).err = s.err &&& ~~~(w.setWidth 8) := rfl
@[simp] theorem clearErr_history (w : Word) (s : State) : (clearErr w s).history = s.history := rfl
@[simp] theorem clearErr_reads (w : Word) (s : State) : (clearErr w s).reads = s.reads := rfl
@[simp] theorem clearErr_inputs (w : Word) (s : State) : (clearErr w s).inputs = s.inputs := rfl
@[simp] theorem clearErr_answers (w : Word) (s : State) : (clearErr w s).answers = s.answers := rfl
@[simp] theorem clearErr_draws (w : Word) (s : State) : (clearErr w s).draws = s.draws := rfl

/-! ### rejectBusy -/

@[simp] theorem rejectBusy_cfg (s : State) : (rejectBusy s).cfg = s.cfg := rfl
@[simp] theorem rejectBusy_cal (s : State) : (rejectBusy s).cal = s.cal := rfl
@[simp] theorem rejectBusy_calValid (s : State) : (rejectBusy s).calValid = s.calValid := rfl
@[simp] theorem rejectBusy_calShadow (s : State) : (rejectBusy s).calShadow = s.calShadow := rfl
@[simp] theorem rejectBusy_seq (s : State) : (rejectBusy s).seq = s.seq := rfl
@[simp] theorem rejectBusy_waitCnt (s : State) : (rejectBusy s).waitCnt = s.waitCnt := rfl
@[simp] theorem rejectBusy_mode (s : State) : (rejectBusy s).mode = s.mode := rfl
@[simp] theorem rejectBusy_oss (s : State) : (rejectBusy s).oss = s.oss := rfl
@[simp] theorem rejectBusy_astate (s : State) : (rejectBusy s).astate = s.astate := rfl
@[simp] theorem rejectBusy_utBuf (s : State) : (rejectBusy s).utBuf = s.utBuf := rfl
@[simp] theorem rejectBusy_eocPrev (s : State) : (rejectBusy s).eocPrev = s.eocPrev := rfl
@[simp] theorem rejectBusy_eocPend (s : State) : (rejectBusy s).eocPend = s.eocPend := rfl
@[simp] theorem rejectBusy_cbEn (s : State) : (rejectBusy s).cbEn = s.cbEn := rfl
@[simp] theorem rejectBusy_utReg (s : State) : (rejectBusy s).utReg = s.utReg := rfl
@[simp] theorem rejectBusy_upReg (s : State) : (rejectBusy s).upReg = s.upReg := rfl
@[simp] theorem rejectBusy_tReg (s : State) : (rejectBusy s).tReg = s.tReg := rfl
@[simp] theorem rejectBusy_pReg (s : State) : (rejectBusy s).pReg = s.pReg := rfl
@[simp] theorem rejectBusy_resValid (s : State) : (rejectBusy s).resValid = s.resValid := rfl
@[simp] theorem rejectBusy_lastResult (s : State) : (rejectBusy s).lastResult = s.lastResult := rfl
@[simp] theorem rejectBusy_err (s : State) : (rejectBusy s).err = s.err ||| busyMask := rfl
@[simp] theorem rejectBusy_history (s : State) : (rejectBusy s).history = s.history := rfl
@[simp] theorem rejectBusy_reads (s : State) : (rejectBusy s).reads = s.reads := rfl
@[simp] theorem rejectBusy_inputs (s : State) : (rejectBusy s).inputs = s.inputs := rfl
@[simp] theorem rejectBusy_answers (s : State) : (rejectBusy s).answers = s.answers := rfl
@[simp] theorem rejectBusy_draws (s : State) : (rejectBusy s).draws = s.draws := rfl

/-! ### sampleEoc -/

@[simp] theorem sampleEoc_cfg (e : Bool) (s : State) : (sampleEoc e s).cfg = s.cfg := rfl
@[simp] theorem sampleEoc_cal (e : Bool) (s : State) : (sampleEoc e s).cal = s.cal := rfl
@[simp] theorem sampleEoc_calValid (e : Bool) (s : State) : (sampleEoc e s).calValid = s.calValid := rfl
@[simp] theorem sampleEoc_calShadow (e : Bool) (s : State) : (sampleEoc e s).calShadow = s.calShadow := rfl
@[simp] theorem sampleEoc_seq (e : Bool) (s : State) : (sampleEoc e s).seq = s.seq := rfl
@[simp] theorem sampleEoc_waitCnt (e : Bool) (s : State) : (sampleEoc e s).waitCnt = s.waitCnt := rfl
@[simp] theorem sampleEoc_mode (e : Bool) (s : State) : (sampleEoc e s).mode = s.mode := rfl
@[simp] theorem sampleEoc_oss (e : Bool) (s : State) : (sampleEoc e s).oss = s.oss := rfl
@[simp] theorem sampleEoc_astate (e : Bool) (s : State) : (sampleEoc e s).astate = s.astate := rfl
@[simp] theorem sampleEoc_utBuf (e : Bool) (s : State) : (sampleEoc e s).utBuf = s.utBuf := rfl
@[simp] theorem sampleEoc_eocPrev (e : Bool) (s : State) : (sampleEoc e s).eocPrev = e := rfl
@[simp] theorem sampleEoc_eocPend (e : Bool) (s : State) : (sampleEoc e s).eocPend = (s.eocPend || (e && !s.eocPrev && s.mode == modeAsync)) := rfl
@[simp] theorem sampleEoc_cbEn (e : Bool) (s : State) : (sampleEoc e s).cbEn = s.cbEn := rfl
@[simp] theorem sampleEoc_utReg (e : Bool) (s : State) : (sampleEoc e s).utReg = s.utReg := rfl
@[simp] theorem sampleEoc_upReg (e : Bool) (s : State) : (sampleEoc e s).upReg = s.upReg := rfl
@[simp] theorem sampleEoc_tReg (e : Bool) (s : State) : (sampleEoc e s).tReg = s.tReg := rfl
@[simp] theorem sampleEoc_pReg (e : Bool) (s : State) : (sampleEoc e s).pReg = s.pReg := rfl
@[simp] theorem sampleEoc_resValid (e : Bool) (s : State) : (sampleEoc e s).resValid = s.resValid := rfl
@[simp] theorem sampleEoc_lastResult (e : Bool) (s : State) : (sampleEoc e s).lastResult = s.lastResult := rfl
@[simp] theorem sampleEoc_err (e : Bool) (s : State) : (sampleEoc e s).err = s.err := rfl
@[simp] theorem sampleEoc_history (e : Bool) (s : State) : (sampleEoc e s).history = s.history := rfl
@[simp] theorem sampleEoc_reads (e : Bool) (s : State) : (sampleEoc e s).reads = s.reads := rfl
@[simp] theorem sampleEoc_inputs (e : Bool) (s : State) : (sampleEoc e s).inputs = s.inputs := rfl
@[simp] theorem sampleEoc_answers (e : Bool) (s : State) : (sampleEoc e s).answers = s.answers := rfl
@[simp] theorem sampleEoc_draws (e : Bool) (s : State) : (sampleEoc e s).draws = s.draws := rfl

/-! ### commitCal -/

@[simp] theorem commitCal_cfg (s : State) : (commitCal s).cfg = s.cfg := rfl
@[simp] theorem commitCal_cal (s : State) : (commitCal s).cal = s.calShadow := rfl
@[simp] theorem commitCal_calValid (s : State) : (commitCal s).calValid = true := rfl
@[simp] theorem commitCal_calShadow (s : State) : (commitCal s).calShadow = s.calShadow := rfl
@[simp] theorem commitCal_seq (s : State) : (commitCal s).seq = s.seq := rfl
@[simp] theorem commitCal_waitCnt (s : State) : (commitCal s).waitCnt = s.waitCnt := rfl
@[simp] theorem commitCal_mode (s : State) : (commitCal s).mode = s.mode := rfl
@[simp] theorem commitCal_oss (s : State) : (commitCal s).oss = s.oss := rfl
@[simp] theorem commitCal_astate (s : State) : (commitCal s).astate = s.astate := rfl
@[simp] theorem commitCal_utBuf (s : State) : (commitCal s).utBuf = s.utBuf := rfl
@[simp] theorem commitCal_eocPrev (s : State) : (commitCal s).eocPrev = s.eocPrev := rfl
@[simp] theorem commitCal_eocPend (s : State) : (commitCal s).eocPend = s.eocPend := rfl
@[simp] theorem commitCal_cbEn (s : State) : (commitCal s).cbEn = s.cbEn := rfl
@[simp] theorem commitCal_utReg (s : State) : (commitCal s).utReg = s.utReg := rfl
@[simp] theorem commitCal_upReg (s : State) : (commitCal s).upReg = s.upReg := rfl
@[simp] theorem commitCal_tReg (s : State) : (commitCal s).tReg = s.tReg := rfl
@[simp] theorem commitCal_pReg (s : State) : (commitCal s).pReg = s.pReg := rfl
@[simp] theorem commitCal_resValid (s : State) : (commitCal s).resValid = s.resValid := rfl
@[simp] theorem commitCal_lastResult (s : State) : (commitCal s).lastResult = s.lastResult := rfl
@[simp] theorem commitCal_err (s : State) : (commitCal s).err = s.err := rfl
@[simp] theorem commitCal_history (s : State) : (commitCal s).history = s.history := rfl
@[simp] theorem commitCal_reads (s : State) : (commitCal s).reads = s.reads := rfl
@[simp] theorem commitCal_inputs (s : State) : (commitCal s).inputs = s.inputs := rfl
@[simp] theorem commitCal_answers (s : State) : (commitCal s).answers = s.answers := rfl
@[simp] theorem commitCal_draws (s : State) : (commitCal s).draws = s.draws := rfl

/-! ### enterAsync -/

@[simp] theorem enterAsync_cfg (s : State) : (enterAsync s).cfg = s.cfg := rfl
@[simp] theorem enterAsync_cal (s : State) : (enterAsync s).cal = s.cal := rfl
@[simp] theorem enterAsync_calValid (s : State) : (enterAsync s).calValid = s.calValid := rfl
@[simp] theorem enterAsync_calShadow (s : State) : (enterAsync s).calShadow = s.calShadow := rfl
@[simp] theorem enterAsync_seq (s : State) : (enterAsync s).seq = s.seq := rfl
@[simp] theorem enterAsync_waitCnt (s : State) : (enterAsync s).waitCnt = s.waitCnt := rfl
@[simp] theorem enterAsync_mode (s : State) : (enterAsync s).mode = modeAsync := rfl
@[simp] theorem enterAsync_oss (s : State) : (enterAsync s).oss = s.oss := rfl
@[simp] theorem enterAsync_astate (s : State) : (enterAsync s).astate = awaitingTemperature := rfl
@[simp] theorem enterAsync_utBuf (s : State) : (enterAsync s).utBuf = s.utBuf := rfl
@[simp] theorem enterAsync_eocPrev (s : State) : (enterAsync s).eocPrev = s.eocPrev := rfl
@[simp] theorem enterAsync_eocPend (s : State) : (enterAsync s).eocPend = false := rfl
@[simp] theorem enterAsync_cbEn (s : State) : (enterAsync s).cbEn = s.cbEn := rfl
@[simp] theorem enterAsync_utReg (s : State) : (enterAsync s).utReg = s.utReg := rfl
@[simp] theorem enterAsync_upReg (s : State) : (enterAsync s).upReg = s.upReg := rfl
@[simp] theorem enterAsync_tReg (s : State) : (enterAsync s).tReg = s.tReg := rfl
@[simp] theorem enterAsync_pReg (s : State) : (enterAsync s).pReg = s.pReg := rfl
@[simp] theorem enterAsync_resValid (s : State) : (enterAsync s).resValid = s.resValid := rfl
@[simp] theorem enterAsync_lastResult (s : State) : (enterAsync s).lastResult = s.lastResult := rfl
@[simp] theorem enterAsync_err (s : State) : (enterAsync s).err = s.err := rfl
@[simp] theorem enterAsync_history (s : State) : (enterAsync s).history = s.history := rfl
@[simp] theorem enterAsync_reads (s : State) : (enterAsync s).reads = s.reads := rfl
@[simp] theorem enterAsync_inputs (s : State) : (enterAsync s).inputs = s.inputs := rfl
@[simp] theorem enterAsync_answers (s : State) : (enterAsync s).answers = s.answers := rfl
@[simp] theorem enterAsync_draws (s : State) : (enterAsync s).draws = s.draws := rfl

/-! ### storeResult -/

@[simp] theorem storeResult_cfg (r : Word × Word) (s : State) : (storeResult r s).cfg = s.cfg := rfl
@[simp] theorem storeResult_cal (r : Word × Word) (s : State) : (storeResult r s).cal = s.cal := rfl
@[simp] theorem storeResult_calValid (r : Word × Word) (s : State) : (storeResult r s).calValid = s.calValid := rfl
@[simp] theorem storeResult_calShadow (r : Word × Word) (s : State) : (storeResult r s).calShadow = s.calShadow := rfl
@[simp] theorem storeResult_seq (r : Word × Word) (s : State) : (storeResult r s).seq = s.seq := rfl
@[simp] theorem storeResult_waitCnt (r : Word × Word) (s : State) : (storeResult r s).waitCnt = s.waitCnt := rfl
@[simp] theorem storeResult_mode (r : Word × Word) (s : State) : (storeResult r s).mode = s.mode := rfl
@[simp] theorem storeResult_oss (r : Word × Word) (s : State) : (storeResult r s).oss = s.oss := rfl
@[simp] theorem storeResult_astate (r : Word × Word) (s : State) : (storeResult r s).astate = s.astate := rfl
@[simp] theorem storeResult_utBuf (r : Word × Word) (s : State) : (storeResult r s).utBuf = s.utBuf := rfl
@[simp] theorem storeResult_eocPrev (r : Word × Word) (s : State) : (storeResult r s).eocPrev = s.eocPrev := rfl
@[simp] theorem storeResult_eocPend (r : Word × Word) (s : State) : (storeResult r s).eocPend = s.eocPend := rfl
@[simp] theorem storeResult_cbEn (r : Word × Word) (s : State) : (storeResult r s).cbEn = s.cbEn := rfl
@[simp] theorem storeResult_utReg (r : Word × Word) (s : State) : (storeResult r s).utReg = s.utReg := rfl
@[simp] theorem storeResult_upReg (r : Word × Word) (s : State) : (storeResult r s).upReg = s.upReg := rfl
@[simp] theorem storeResult_tReg (r : Word × Word) (s : State) : (storeResult r s).tReg = r.1 := rfl
@[simp] theorem storeResult_pReg (r : Word × Word) (s : State) : (storeResult r s).pReg = r.2 := rfl
@[simp] theorem storeResult_resValid (r : Word × Word) (s : State) : (storeResult r s).resValid = true := rfl
@[simp] theorem storeResult_lastResult (r : Word × Word) (s : State) : (storeResult r s).lastResult = s.lastResult := rfl
@[simp] theorem storeResult_err (r : Word × Word) (s : State) : (storeResult r s).err = s.err := rfl
@[simp] theorem storeResult_history (r : Word × Word) (s : State) : (storeResult r s).history = s.history := rfl
@[simp] theorem storeResult_reads (r : Word × Word) (s : State) : (storeResult r s).reads = s.reads := rfl
@[simp] theorem storeResult_inputs (r : Word × Word) (s : State) : (storeResult r s).inputs = s.inputs := rfl
@[simp] theorem storeResult_answers (r : Word × Word) (s : State) : (storeResult r s).answers = s.answers := rfl
@[simp] theorem storeResult_draws (r : Word × Word) (s : State) : (storeResult r s).draws = s.draws := rfl

/-! ### stepDiv0 -/

@[simp] theorem stepDiv0_cfg (s : State) : (stepDiv0 s).cfg = s.cfg := rfl
@[simp] theorem stepDiv0_cal (s : State) : (stepDiv0 s).cal = s.cal := rfl
@[simp] theorem stepDiv0_calValid (s : State) : (stepDiv0 s).calValid = s.calValid := rfl
@[simp] theorem stepDiv0_calShadow (s : State) : (stepDiv0 s).calShadow = s.calShadow := rfl
@[simp] theorem stepDiv0_seq (s : State) : (stepDiv0 s).seq = s.seq := rfl
@[simp] theorem stepDiv0_waitCnt (s : State) : (stepDiv0 s).waitCnt = s.waitCnt := rfl
@[simp] theorem stepDiv0_mode (s : State) : (stepDiv0 s).mode = s.mode := rfl
@[simp] theorem stepDiv0_oss (s : State) : (stepDiv0 s).oss = s.oss := rfl
@[simp] theorem stepDiv0_astate (s : State) : (stepDiv0 s).astate = s.astate := rfl
@[simp] theorem stepDiv0_utBuf (s : State) : (stepDiv0 s).utBuf = s.utBuf := rfl
@[simp] theorem stepDiv0_eocPrev (s : State) : (stepDiv0 s).eocPrev = s.eocPrev := rfl
@[simp] theorem stepDiv0_eocPend (s : State) : (stepDiv0 s).eocPend = s.eocPend := rfl
@[simp] theorem stepDiv0_cbEn (s : State) : (stepDiv0 s).cbEn = s.cbEn := rfl
@[simp] theorem stepDiv0_utReg (s : State) : (stepDiv0 s).utReg = s.utReg := rfl
@[simp] theorem stepDiv0_upReg (s : State) : (stepDiv0 s).upReg = s.upReg := rfl
@[simp] theorem stepDiv0_tReg (s : State) : (stepDiv0 s).tReg = s.tReg := rfl
@[simp] theorem stepDiv0_pReg (s : State) : (stepDiv0 s).pReg = s.pReg := rfl
@[simp] theorem stepDiv0_resValid (s : State) : (stepDiv0 s).resValid = false := rfl
@[simp] theorem stepDiv0_lastResult (s : State) : (stepDiv0 s).lastResult = s.lastResult := rfl
@[simp] theorem stepDiv0_err (s : State) : (stepDiv0 s).err = s.err ||| errMask .div0 := rfl
@[simp] theorem stepDiv0_history (s : State) : (stepDiv0 s).history = s.history := rfl
@[simp] theorem stepDiv0_reads (s : State) : (stepDiv0 s).reads = s.reads := rfl
@[simp] theorem stepDiv0_inputs (s : State) : (stepDiv0 s).inputs = s.inputs := rfl
@[simp] theorem stepDiv0_answers (s : State) : (stepDiv0 s).answers = s.answers := rfl
@[simp] theorem stepDiv0_draws (s : State) : (stepDiv0 s).draws = s.draws := rfl

/-! ### dropShadow -/

@[simp] theorem dropShadow_cfg (s : State) : (dropShadow s).cfg = s.cfg := rfl
@[simp] theorem dropShadow_cal (s : State) : (dropShadow s).cal = s.cal := rfl
@[simp] theorem dropShadow_calValid (s : State) : (dropShadow s).calValid = s.calValid := rfl
@[simp] theorem dropShadow_calShadow (s : State) : (dropShadow s).calShadow = Config.freeShadow s.draws := rfl
@[simp] theorem dropShadow_seq (s : State) : (dropShadow s).seq = s.seq := rfl
@[simp] theorem dropShadow_waitCnt (s : State) : (dropShadow s).waitCnt = s.waitCnt := rfl
@[simp] theorem dropShadow_mode (s : State) : (dropShadow s).mode = s.mode := rfl
@[simp] theorem dropShadow_oss (s : State) : (dropShadow s).oss = s.oss := rfl
@[simp] theorem dropShadow_astate (s : State) : (dropShadow s).astate = s.astate := rfl
@[simp] theorem dropShadow_utBuf (s : State) : (dropShadow s).utBuf = s.utBuf := rfl
@[simp] theorem dropShadow_eocPrev (s : State) : (dropShadow s).eocPrev = s.eocPrev := rfl
@[simp] theorem dropShadow_eocPend (s : State) : (dropShadow s).eocPend = s.eocPend := rfl
@[simp] theorem dropShadow_cbEn (s : State) : (dropShadow s).cbEn = s.cbEn := rfl
@[simp] theorem dropShadow_utReg (s : State) : (dropShadow s).utReg = s.utReg := rfl
@[simp] theorem dropShadow_upReg (s : State) : (dropShadow s).upReg = s.upReg := rfl
@[simp] theorem dropShadow_tReg (s : State) : (dropShadow s).tReg = s.tReg := rfl
@[simp] theorem dropShadow_pReg (s : State) : (dropShadow s).pReg = s.pReg := rfl
@[simp] theorem dropShadow_resValid (s : State) : (dropShadow s).resValid = s.resValid := rfl
@[simp] theorem dropShadow_lastResult (s : State) : (dropShadow s).lastResult = s.lastResult := rfl
@[simp] theorem dropShadow_err (s : State) : (dropShadow s).err = s.err := rfl
@[simp] theorem dropShadow_history (s : State) : (dropShadow s).history = s.history := rfl
@[simp] theorem dropShadow_reads (s : State) : (dropShadow s).reads = s.reads := rfl
@[simp] theorem dropShadow_inputs (s : State) : (dropShadow s).inputs = s.inputs := rfl
@[simp] theorem dropShadow_answers (s : State) : (dropShadow s).answers = s.answers := rfl
@[simp] theorem dropShadow_draws (s : State) : (dropShadow s).draws = s.draws := rfl

/-! ### startStep -/

@[simp] theorem startStep_cfg (s : State) : (startStep s).cfg = s.cfg := rfl
@[simp] theorem startStep_cal (s : State) : (startStep s).cal = s.cal := rfl
@[simp] theorem startStep_calValid (s : State) : (startStep s).calValid = s.calValid := rfl
@[simp] theorem startStep_calShadow (s : State) : (startStep s).calShadow = s.calShadow := rfl
@[simp] theorem startStep_seq (s : State) : (startStep s).seq = .running := rfl
@[simp] theorem startStep_waitCnt (s : State) : (startStep s).waitCnt = s.waitCnt := rfl
@[simp] theorem startStep_mode (s : State) : (startStep s).mode = s.mode := rfl
@[simp] theorem startStep_oss (s : State) : (startStep s).oss = s.oss := rfl
@[simp] theorem startStep_astate (s : State) : (startStep s).astate = s.astate := rfl
@[simp] theorem startStep_utBuf (s : State) : (startStep s).utBuf = s.utBuf := rfl
@[simp] theorem startStep_eocPrev (s : State) : (startStep s).eocPrev = s.eocPrev := rfl
@[simp] theorem startStep_eocPend (s : State) : (startStep s).eocPend = false := rfl
@[simp] theorem startStep_cbEn (s : State) : (startStep s).cbEn = s.cbEn := rfl
@[simp] theorem startStep_utReg (s : State) : (startStep s).utReg = s.utReg := rfl
@[simp] theorem startStep_upReg (s : State) : (startStep s).upReg = s.upReg := rfl
@[simp] theorem startStep_tReg (s : State) : (startStep s).tReg = s.tReg := rfl
@[simp] theorem startStep_pReg (s : State) : (startStep s).pReg = s.pReg := rfl
@[simp] theorem startStep_resValid (s : State) : (startStep s).resValid = s.resValid := rfl
@[simp] theorem startStep_lastResult (s : State) : (startStep s).lastResult = s.lastResult := rfl
@[simp] theorem startStep_err (s : State) : (startStep s).err = s.err := rfl
@[simp] theorem startStep_history (s : State) : (startStep s).history = s.history := rfl
@[simp] theorem startStep_reads (s : State) : (startStep s).reads = s.reads := rfl
@[simp] theorem startStep_inputs (s : State) : (startStep s).inputs = s.inputs := rfl
@[simp] theorem startStep_answers (s : State) : (startStep s).answers = s.answers := rfl
@[simp] theorem startStep_draws (s : State) : (startStep s).draws = s.draws := rfl

/-! ### doReset -/

@[simp] theorem doReset_cfg (s : State) : (doReset s).cfg = s.cfg := rfl
@[simp] theorem doReset_cal (s : State) : (doReset s).cal = State.reset.cal := rfl
@[simp] theorem doReset_calValid (s : State) : (doReset s).calValid = State.reset.calValid := rfl
@[simp] theorem doReset_calShadow (s : State) : (doReset s).calShadow = State.reset.calShadow := rfl
@[simp] theorem doReset_seq (s : State) : (doReset s).seq = State.reset.seq := rfl
@[simp] theorem doReset_waitCnt (s : State) : (doReset s).waitCnt = State.reset.waitCnt := rfl
@[simp] theorem doReset_mode (s : State) : (doReset s).mode = State.reset.mode := rfl
@[simp] theorem doReset_oss (s : State) : (doReset s).oss = State.reset.oss := rfl
@[simp] theorem doReset_astate (s : State) : (doReset s).astate = State.reset.astate := rfl
@[simp] theorem doReset_utBuf (s : State) : (doReset s).utBuf = State.reset.utBuf := rfl
@[simp] theorem doReset_eocPrev (s : State) : (doReset s).eocPrev = State.reset.eocPrev := rfl
@[simp] theorem doReset_eocPend (s : State) : (doReset s).eocPend = State.reset.eocPend := rfl
@[simp] theorem doReset_cbEn (s : State) : (doReset s).cbEn = State.reset.cbEn := rfl
@[simp] theorem doReset_utReg (s : State) : (doReset s).utReg = State.reset.utReg := rfl
@[simp] theorem doReset_upReg (s : State) : (doReset s).upReg = State.reset.upReg := rfl
@[simp] theorem doReset_tReg (s : State) : (doReset s).tReg = State.reset.tReg := rfl
@[simp] theorem doReset_pReg (s : State) : (doReset s).pReg = State.reset.pReg := rfl
@[simp] theorem doReset_resValid (s : State) : (doReset s).resValid = State.reset.resValid := rfl
@[simp] theorem doReset_lastResult (s : State) : (doReset s).lastResult = State.reset.lastResult := rfl
@[simp] theorem doReset_err (s : State) : (doReset s).err = State.reset.err := rfl
@[simp] theorem doReset_history (s : State) : (doReset s).history = s.history := rfl
@[simp] theorem doReset_reads (s : State) : (doReset s).reads = s.reads := rfl
@[simp] theorem doReset_inputs (s : State) : (doReset s).inputs = s.inputs := rfl
@[simp] theorem doReset_answers (s : State) : (doReset s).answers = s.answers := rfl
@[simp] theorem doReset_draws (s : State) : (doReset s).draws = s.draws := rfl

end Sys2Proof.Machine
end

