-- ==== Sys2Proof/Laws/Ops.lean ====
section
/-! SUPPORT. What each shared operation can do, said once: the ends of a flow, a quiet environment, fixed answers of the
bus, and the cycles inside an operation under any inputs. -/
namespace Sys2Proof.Machine

/-! ### Flows -/

@[simp] theorem Flow.bind_val {α β : Type} (a : α) (s : State) (f : α → State → Flow β) :
    (Flow.val a s).bind f = f a s := rfl
@[simp] theorem Flow.bind_err {α β : Type} (e : Err) (s : State) (f : α → State → Flow β) :
    (Flow.err e s).bind f = .err e s := rfl
@[simp] theorem Flow.bind_rst {α β : Type} (s : State) (f : α → State → Flow β) :
    (Flow.rst s : Flow α).bind f = .rst s := rfl
@[simp] theorem conclude_val (u : Unit) (s : State) : conclude (.val u s) = finishOk s := rfl
@[simp] theorem conclude_err (e : Err) (s : State) : conclude (.err e s) = raise e s := rfl
@[simp] theorem conclude_rst (s : State) : conclude (.rst s) = s := rfl
@[simp] theorem Flow.bind_ref {α β : Type} (s : State) (f : α → State → Flow β) :
    (Flow.ref s : Flow α).bind f = .ref s := rfl
@[simp] theorem Flow.recover_val (u : Unit) (s : State) (f : State → Flow Unit) :
    (Flow.val u s).recover f = .val u s := rfl
@[simp] theorem Flow.recover_err (e : Err) (s : State) (f : State → Flow Unit) :
    (Flow.err e s : Flow Unit).recover f = f s := rfl
@[simp] theorem endStep_val (u : Unit) (s : State) : endStep (.val u s) = { s with seq := .idle } := rfl
@[simp] theorem endLoad_val (u : Unit) (s : State) : endLoad (.val u s) = .val () (dropShadow (commitCal s)) := rfl
@[simp] theorem endLoad_err (e : Err) (s : State) : endLoad (.err e s) = .err e (dropShadow s) := rfl

/-! ### Outcomes -/

@[simp] theorem outcome_val (close : Flow Unit → State) (s t : State) (u : Unit) :
    outcome close s (.val u t) = .next (close (.val u t)) := by
  unfold outcome; split <;> rfl
@[simp] theorem outcome_err (close : Flow Unit → State) (s t : State) (e : Err) :
    outcome close s (.err e t) = .next (close (.err e t)) := by
  unfold outcome; split <;> rfl
@[simp] theorem outcome_rst (close : Flow Unit → State) (s t : State) :
    outcome close s (.rst t) = .next (close (.rst t)) := by
  unfold outcome; split <;> rfl

/-- A reset is to come. -/
def ResetToCome (s : State) : Prop := ∃ c ∈ s.inputs, c.rst = true

/-- A host access that R46 refuses is to come. -/
def RefusalToCome (s : State) : Prop := ∃ c ∈ s.inputs, c.host.admitted = false

theorem NoReset.none {s : State} (h : NoReset s) : ¬ResetToCome s :=
  fun ⟨c, hc, hr⟩ => by simp [h c hc] at hr

theorem Admitted.none {s : State} (h : Admitted s) : ¬RefusalToCome s :=
  fun ⟨c, hc, hr⟩ => by simp [h c hc] at hr

theorem allAdmitted_iff (s : State) : allAdmitted s = true ↔ Admitted s := by
  simp [allAdmitted, Admitted]

/-- Where every access to come is admitted, an operation answers a next state. -/
theorem outcome_admitted {s : State} (h : Admitted s) (close : Flow Unit → State) (x : Flow Unit) :
    outcome close s x = .next (close x) := if_pos ((allAdmitted_iff s).2 h)

/-- A property of each way a flow can end; `N` of a refusal. -/
def Flow.Ends {α : Type} (V : α → State → Prop) (E : Err → State → Prop) (R : State → Prop) (N : Prop) : Flow α → Prop
  | .val a s => V a s
  | .err e s => E e s
  | .rst s => R s
  | .ref _ => N

/-- A property of every end of a sequence, from one of each part. -/
theorem Flow.Ends.bind {α β : Type} {V : α → State → Prop} {W : β → State → Prop} {E : Err → State → Prop}
    {R : State → Prop} {N : Prop} {x : Flow α} {f : α → State → Flow β} (hx : x.Ends V E R N)
    (hf : ∀ a s, V a s → (f a s).Ends W E R N) : (x.bind f).Ends W E R N := by
  cases x with
  | val a s => exact hf a s hx
  | err e s => exact hx
  | rst s => exact hx
  | ref s => exact hx

/-- A property of every end after a recovery from errors. -/
theorem Flow.Ends.recover {V : Unit → State → Prop} {E F : Err → State → Prop} {R : State → Prop} {N : Prop}
    {x : Flow Unit} {f : State → Flow Unit} (hx : x.Ends V E R N) (hf : ∀ e s, E e s → (f s).Ends V F R N) :
    (x.recover f).Ends V F R N := by
  cases x with
  | val a s => exact hx
  | err e s => exact hf e s hx
  | rst s => exact hx
  | ref s => exact hx

/-- Weaken what is said of each end. -/
theorem Flow.Ends.mono {α : Type} {V V' : α → State → Prop} {E E' : Err → State → Prop} {R R' : State → Prop}
    {N N' : Prop} {x : Flow α} (hx : x.Ends V E R N) (hV : ∀ a s, V a s → V' a s) (hE : ∀ e s, E e s → E' e s)
    (hR : ∀ s, R s → R' s) (hN : N → N') : x.Ends V' E' R' N' := by
  cases x with
  | val a s => exact hV a s hx
  | err e s => exact hE e s hx
  | rst s => exact hR s hx
  | ref s => exact hN hx

/-- An operation that answers a next state ended in one of the other ways. -/
theorem outcome_next {V : Unit → State → Prop} {E : Err → State → Prop} {R : State → Prop} {close : Flow Unit → State}
    {s t : State} {x : Flow Unit} (h : outcome close s x = .next t) (hx : x.Ends V E R (RefusalToCome s)) :
    t = close x ∧ x.Ends V E R False := by
  unfold outcome at h
  split at h
  · rename_i ha
    exact ⟨by cases h; rfl, hx.mono (fun _ _ h => h) (fun _ _ h => h) (fun _ h => h)
      ((allAdmitted_iff s).1 ha).none⟩
  · cases x with
    | val a u => exact ⟨by cases h; rfl, hx⟩
    | err e u => exact ⟨by cases h; rfl, hx⟩
    | rst u => exact ⟨by cases h; rfl, hx⟩
    | ref u => cases h

/-! ### A quiet environment -/

/-- With no inputs to come, no cycle passes before the next event. -/
theorem gap_quiet {s : State} (h : s.inputs = []) : gap s = .val () s := by
  cases s
  simp_all [gap, gapFrom]

/-- With no inputs to come, a wait is its event; its counter has run out. -/
theorem waitFor_quiet {us : Nat} {s : State} (h : s.inputs = []) :
    waitFor us s = .val () { s with history := s.history ++ [.wait us], waitCnt := 0 } := by
  simp only [waitFor, gap_quiet h, Flow.bind_val]
  cases s
  simp_all [runWait, pushEvent, countDown]

/-- With no inputs to come, an event happens at once. -/
theorem emit_quiet {e : Event} {s : State} (h : s.inputs = []) :
    emit e s = .val () { s with history := s.history ++ [e] } := by
  simp only [emit, gap_quiet h, Flow.bind_val]
  rfl

theorem emitIf_quiet {on : Bool} {e : Event} {s : State} (h : s.inputs = []) :
    emitIf on e s = .val () { s with history := s.history ++ if on then [e] else [] } := by
  cases on with
  | false => simp [emitIf]
  | true => simp [emitIf, emit_quiet h]

theorem diag_quiet {k : DiagKind} {v : Byte} {s : State} (h : s.inputs = []) :
    diag k v s = .val () { s with history := s.history ++ [.diag k v] } := emit_quiet h

/-! ### The bus with fixed answers -/

theorem busRead_data {s : State} {r : Nat} {b : Byte} {rest : List Answer} (h : s.answers = .data r b :: rest) :
    busRead r s = (some b, { s with
      history := s.history ++ [rdEvent s.cfg r b], answers := rest, draws := s.draws + 1 }) := by
  simp [busRead, drawRead, h, rdEvent]

theorem busRead_fail {s : State} {r : Nat} {rest : List Answer} (h : s.answers = .fail :: rest) :
    busRead r s = (none, { s with
      history := s.history ++ [rdFailEvent s.cfg r], answers := rest, draws := s.draws + 1 }) := by
  simp [busRead, drawRead, h, rdFailEvent]

theorem writeStart_ack {s : State} {b : Byte} {rest : List Answer} (h : s.answers = .ack :: rest) :
    writeStart b s = (true, { s with
      history := s.history ++ [startEvent s.cfg b true], answers := rest, draws := s.draws + 1 }) := by
  simp [writeStart, busWrite, drawWrite, h, startEvent]

theorem writeStart_fail {s : State} {b : Byte} {rest : List Answer} (h : s.answers = .fail :: rest) :
    writeStart b s = (false, { s with
      history := s.history ++ [startEvent s.cfg b false], answers := rest, draws := s.draws + 1 }) := by
  simp [writeStart, busWrite, drawWrite, h, startEvent]

/-- A read under any answer: its byte or a failure, one event, one transaction counted, and nothing else. -/
theorem busRead_cases (r : Nat) (s : State) : ∃ as, busRead r s = ((drawRead r s).1, { s with
    history := s.history ++ [.busRd s.cfg.sensDevAddr r (drawRead r s).1], answers := as, draws := s.draws + 1 }) :=
  ⟨_, rfl⟩

/-- A start command under any answer: one event, one transaction counted, and nothing else. -/
theorem writeStart_cases (b : Byte) (s : State) : ∃ ok as, writeStart b s = (ok, { s with
    history := s.history ++ [startEvent s.cfg b ok], answers := as, draws := s.draws + 1 }) :=
  ⟨_, _, rfl⟩

/-! ### Stretches of an operation in a quiet environment -/

theorem readByte_quiet_data {s : State} {r : Nat} {b : Byte} {rest : List Answer} (hi : s.inputs = [])
    (h : s.answers = .data r b :: rest) :
    readByte r s = .val b { s with
      history := s.history ++ [rdEvent s.cfg r b], answers := rest, draws := s.draws + 1 } := by
  simp [readByte, gap_quiet hi, busRead_data h]

theorem readByte_quiet_fail {s : State} {r : Nat} {rest : List Answer} (hi : s.inputs = [])
    (h : s.answers = .fail :: rest) :
    readByte r s = .err .comm { s with
      history := s.history ++ [rdFailEvent s.cfg r], answers := rest, draws := s.draws + 1 } := by
  simp [readByte, gap_quiet hi, busRead_fail h]

theorem startConversion_quiet_ack {s : State} {b : Byte} {rest : List Answer} (hi : s.inputs = [])
    (h : s.answers = .ack :: rest) :
    startConversion b s = .val () { s with
      history := s.history ++ [startEvent s.cfg b true], answers := rest, draws := s.draws + 1,
      seq := .running } := by
  have hg : gap { s with seq := .issue b } = .val () { s with seq := .issue b } := gap_quiet hi
  have hw := writeStart_ack (s := { s with seq := .issue b }) (b := b) h
  simp [startConversion, hg, hw]

theorem startConversion_quiet_fail {s : State} {b : Byte} {rest : List Answer} (hi : s.inputs = [])
    (h : s.answers = .fail :: rest) :
    startConversion b s = .err .comm { s with
      history := s.history ++ [startEvent s.cfg b false], answers := rest, draws := s.draws + 1,
      seq := .running } := by
  have hg : gap { s with seq := .issue b } = .val () { s with seq := .issue b } := gap_quiet hi
  have hw := writeStart_fail (s := { s with seq := .issue b }) (b := b) h
  simp [startConversion, hg, hw]

/-! ### The cycles inside an operation, under any inputs -/

@[simp] theorem busyChange_self (s : State) : busyChange s s = s := rfl

/-! What the edge detector does over several cycles (R149). -/

theorem levelAfter_append (p : Bool) (es fs : List Bool) :
    levelAfter p (es ++ fs) = levelAfter (levelAfter p es) fs := by
  induction es generalizing p with
  | nil => rfl
  | cons e es ih => exact ih e

theorem rises_append (p : Bool) (es fs : List Bool) :
    rises p (es ++ fs) = (rises p es || rises (levelAfter p es) fs) := by
  induction es generalizing p with
  | nil => simp [rises, levelAfter]
  | cons e es ih => simp [rises, levelAfter, ih, Bool.or_assoc]

theorem EocFollows.refl (s : State) : EocFollows s s := ⟨[], rfl, rfl, by simp [rises]⟩

theorem EocFollows.trans {s t u : State} (h1 : EocFollows s t) (hm : t.mode = s.mode) (h2 : EocFollows t u) :
    EocFollows s u := by
  obtain ⟨es, a1, a2, a3⟩ := h1
  obtain ⟨fs, b1, b2, b3⟩ := h2
  refine ⟨es ++ fs, by rw [a1, b1, List.append_assoc], by rw [b2, a2, levelAfter_append], ?_⟩
  rw [b3, a3, a2, hm, rises_append, Bool.or_assoc, Bool.and_or_distrib_left]

/-- What samples change depends on nothing else of the two states. -/
theorem EocFollows.congr {s t s' t' : State} (h : EocFollows s t) (hi : s'.inputs = s.inputs)
    (hp : s'.eocPrev = s.eocPrev) (hq : s'.eocPend = s.eocPend) (hm : s'.mode = s.mode) (hj : t'.inputs = t.inputs)
    (hr : t'.eocPrev = t.eocPrev) (hs : t'.eocPend = t.eocPend) : EocFollows s' t' := by
  obtain ⟨es, a1, a2, a3⟩ := h
  exact ⟨es, by rw [hi, hj, a1], by rw [hr, hp, a2], by rw [hs, hq, hm, hp, a3]⟩

/-- `t` is `s` after some cycles inside an operation, none of them a reset or with a refused access. -/
structure Interleaved (s t : State) : Prop where
  /-- ERR, the edge detector's bits, the host's reads and the inputs used up; nothing else. -/
  same : t = busyChange s t
  /-- The edge detector has run in each of them (R149, R150). -/
  eoc : EocFollows s t
  /-- ERR bits are cleared by the host only (R35). -/
  errKept : NoErrWrite s → s.err &&& t.err = s.err
  /-- Of the ERR bits, cycles set BUSY at most (R145). -/
  errNew : NewErrWithin busyMask s t
  /-- The inputs that are left are some of those there were, but for the events that happen at once. -/
  inputs : ∀ c ∈ t.inputs, ∃ d ∈ s.inputs, d.rst = c.rst ∧ d.host = c.host

/-- A STEP becomes owed in async mode only (R149). -/
theorem Interleaved.owed {s t : State} (h : Interleaved s t) (hp : t.eocPend = true) :
    s.eocPend = true ∨ s.mode = modeAsync := by
  obtain ⟨es, -, -, h3⟩ := h.eoc
  rw [h3] at hp
  simp only [Bool.or_eq_true, Bool.and_eq_true, decide_eq_true_eq] at hp
  exact hp.imp id And.left

/-- No cycle inside an operation clears EOC_PEND (R149). -/
theorem Interleaved.pendKept {s t : State} (h : Interleaved s t) (hp : s.eocPend = true) : t.eocPend = true := by
  obtain ⟨es, -, -, h3⟩ := h.eoc
  rw [h3, hp, Bool.true_or]

theorem Interleaved.mode_eq {s t : State} (h : Interleaved s t) : t.mode = s.mode := by rw [h.same]; rfl

theorem newErrWithin_refl (m : BitVec 8) (s : State) : NewErrWithin m s s := by
  unfold NewErrWithin
  ext i hi
  simp
  grind

theorem NewErrWithin.trans {m n : BitVec 8} {s t u : State} (h1 : NewErrWithin m s t) (h2 : NewErrWithin n t u) :
    NewErrWithin (m ||| n) s u := by
  unfold NewErrWithin at *
  ext i hi
  have a := congrArg (·[i]) h1
  have b := congrArg (·[i]) h2
  simp at a b ⊢
  grind

theorem NewErrWithin.mono {m n : BitVec 8} {s t : State} (h : NewErrWithin m s t) (hm : m &&& ~~~n = 0#8) :
    NewErrWithin n s t := by
  unfold NewErrWithin at *
  ext i hi
  have a := congrArg (·[i]) h
  have b := congrArg (·[i]) hm
  simp at a b ⊢
  grind

theorem Interleaved.refl (s : State) : Interleaved s s :=
  ⟨rfl, EocFollows.refl s, fun _ => BitVec.and_self, newErrWithin_refl _ s, fun c h => ⟨c, h, rfl, rfl⟩⟩

theorem and_eq_self_trans {a b c : BitVec 8} (h1 : a &&& b = a) (h2 : b &&& c = b) : a &&& c = a := by
  rw [← h1, BitVec.and_assoc, h2]

theorem Interleaved.noReset {s t : State} (h : Interleaved s t) (hr : NoReset s) : NoReset t := fun c hc => by
  obtain ⟨d, hd, h1, -⟩ := h.inputs c hc
  exact h1 ▸ hr d hd

theorem Interleaved.noErrWrite {s t : State} (h : Interleaved s t) (hr : NoErrWrite s) : NoErrWrite t := fun c hc => by
  obtain ⟨d, hd, -, h2⟩ := h.inputs c hc
  exact h2 ▸ hr d hd

theorem Interleaved.admitted {s t : State} (h : Interleaved s t) (hr : Admitted s) : Admitted t := fun c hc => by
  obtain ⟨d, hd, -, h2⟩ := h.inputs c hc
  exact h2 ▸ hr d hd

theorem Interleaved.resetToCome {s t : State} (h : Interleaved s t) (hr : ResetToCome t) : ResetToCome s := by
  obtain ⟨c, hc, h1⟩ := hr
  obtain ⟨d, hd, h2, -⟩ := h.inputs c hc
  exact ⟨d, hd, h2.trans h1⟩

theorem Interleaved.refusalToCome {s t : State} (h : Interleaved s t) (hr : RefusalToCome t) : RefusalToCome s := by
  obtain ⟨c, hc, h1⟩ := hr
  obtain ⟨d, hd, -, h2⟩ := h.inputs c hc
  exact ⟨d, hd, h2 ▸ h1⟩

theorem Interleaved.trans {s t u : State} (h1 : Interleaved s t) (h2 : Interleaved t u) : Interleaved s u where
  same := by rw [h2.same, h1.same]; rfl
  eoc := h1.eoc.trans h1.mode_eq h2.eoc
  errKept h := and_eq_self_trans (h1.errKept h) (h2.errKept (h1.noErrWrite h))
  errNew := (h1.errNew.trans h2.errNew).mono (by decide)
  inputs c hc := by
    obtain ⟨d, hd, h3, h4⟩ := h2.inputs c hc
    obtain ⟨e, he, h5, h6⟩ := h1.inputs d hd
    exact ⟨e, he, h5.trans h3, h6.trans h4⟩

theorem Interleaved.busy {s t : State} (h : Interleaved s t) (hb : busy s = true) : busy t = true := by
  rw [h.same]; exact hb

/-- An event that happens at once uses up no cycle. -/
theorem Interleaved.atOnce (s : State) {c : Cycle} {cs : List Cycle} (n : Nat) (h : s.inputs = c :: cs) :
    Interleaved s { s with inputs := { c with atOnce := n } :: cs } := by
  refine ⟨rfl, ⟨[], by simp [h], rfl, by simp [rises]⟩, fun _ => BitVec.and_self, newErrWithin_refl _ s,
    fun d hd => ?_⟩
  rcases List.mem_cons.1 hd with rfl | hd
  · exact ⟨c, by simp [h], rfl, rfl⟩
  · exact ⟨d, by simp [h, hd], rfl, rfl⟩

/-- While BUSY = 1 a host access changes ERR and the host's reads at most, and clears no ERR bit unless it writes ERR
(R56, R145). -/
theorem hostAccess_busy {s : State} (hb : busy s = true) (a : HostAccess) :
    hostAccess a s = { s with err := (hostAccess a s).err, reads := (hostAccess a s).reads }
      ∧ (a.writesErr = false → s.err &&& (hostAccess a s).err = s.err)
      ∧ NewErrWithin busyMask s (hostAccess a s) := by
  cases a with
  | idle => exact ⟨rfl, fun _ => BitVec.and_self, newErrWithin_refl _ s⟩
  | read off n => exact ⟨rfl, fun _ => BitVec.and_self, newErrWithin_refl _ s⟩
  | write off n w =>
    have hor : s.err &&& (s.err ||| busyMask) = s.err := by
      ext i hi
      simp
      exact fun h => .inl h
    have hnew : NewErrWithin busyMask s (rejectBusy s) := by
      unfold NewErrWithin rejectBusy setErr
      exact BitVec.and_not_self _
    simp only [hostAccess, writeReg, hb, if_true]
    split
    · exact ⟨rfl, fun _ => hor, hnew⟩
    · rename_i h
      refine ⟨rfl, fun hw => ?_, ?_⟩
      case refine_2 =>
        unfold NewErrWithin clearErr
        ext i hi
        simp
        grind
      have : off = offErr := BitVec.eq_of_toNat_eq h
      simp [HostAccess.writesErr, this] at hw
    · exact ⟨rfl, fun _ => hor, hnew⟩
    · exact ⟨rfl, fun _ => hor, hnew⟩
    · exact ⟨rfl, fun _ => BitVec.and_self, newErrWithin_refl _ s⟩

@[simp] theorem hostAccess_inputs (a : HostAccess) (s : State) : (hostAccess a s).inputs = s.inputs := by
  cases a with
  | idle => rfl
  | read off n => rfl
  | write off n w =>
    simp only [hostAccess, writeReg]
    repeat' split
    all_goals rfl

@[simp] theorem busyTick_inputs (c : Cycle) (s : State) : (busyTick c s).inputs = s.inputs := by
  simp only [busyTick, hostAccess_inputs]; rfl

/-- One cycle inside an operation, taken off the inputs. -/
theorem busyTick_interleaved {s : State} (hb : busy s = true) {c : Cycle} {cs : List Cycle}
    (h : s.inputs = c :: cs) : Interleaved s (busyTick c { s with inputs := cs }) := by
  have hb' : busy (sampleEoc c.eoc { s with inputs := cs }) = true := hb
  obtain ⟨h1, h2, h3⟩ := hostAccess_busy hb' c.host
  have ht : busyTick c { s with inputs := cs } = { sampleEoc c.eoc { s with inputs := cs } with
      err := (busyTick c { s with inputs := cs }).err,
      reads := (busyTick c { s with inputs := cs }).reads } := h1
  refine ⟨?_, ⟨[c.eoc], ?_, ?_, ?_⟩, fun hw => ?_, h3, fun d hd => ?_⟩
  · rw [ht]; rfl
  · rw [ht]; simp [h, sampleEoc]
  · rw [ht]; rfl
  · rw [ht]; simp [sampleEoc, rises, Bool.and_comm, Bool.beq_eq_decide_eq]
  · exact h2 (hw c (by simp [h]))
  · rw [ht] at hd
    exact ⟨d, h ▸ List.mem_cons_of_mem _ hd, rfl, rfl⟩

/-- The ways a stretch of cycles inside an operation ends other than by going on: reset abandons the operation and adds no
event, or a host access to come is refused. -/
abbrev Abandoned (s t : State) : Prop := ∃ u, t = doReset { u with inputs := t.inputs } ∧ Interleaved s u ∧ ResetToCome s

/-- What the cycles up to the next event do: they interleave, or reset abandons the operation, which adds no event. -/
theorem gap_ends : ∀ (cs : List Cycle) (s : State), s.inputs = cs → busy s = true →
    (gapFrom cs s).Ends (fun _ t => Interleaved s t) (fun _ _ => False) (Abandoned s) (RefusalToCome s)
  | [], s, hi, _ => by
    have : ({ s with inputs := [] } : State) = s := by cases s; simp_all
    simp only [gapFrom, this]
    exact Interleaved.refl s
  | c :: cs, s, hi, hb => by
    simp only [gapFrom]
    split
    · exact Interleaved.atOnce s _ hi
    · split
      · exact ⟨s, rfl, Interleaved.refl s, c, by simp [hi], ‹_›⟩
      · split
        · exact ⟨c, by simp [hi], by simpa using ‹(!c.host.admitted) = true›⟩
        · have ht := busyTick_interleaved hb hi
          split
          · exact ht
          · have ih := gap_ends cs (busyTick c { s with inputs := cs }) (busyTick_inputs _ _) (ht.busy hb)
            refine ih.mono (fun _ t h => ht.trans h) (fun _ _ h => h) (fun t h => ?_) ht.refusalToCome
            obtain ⟨u, h1, h2, h3⟩ := h
            exact ⟨u, h1, ht.trans h2, ht.resetToCome h3⟩

/-- As `gap_ends`, of `gap`. -/
theorem gap_ends' {s : State} (hb : busy s = true) :
    (gap s).Ends (fun _ t => Interleaved s t) (fun _ _ => False) (Abandoned s) (RefusalToCome s) :=
  gap_ends s.inputs s rfl hb

/-- What the cycles of a wait do: as `gap_ends`, and the counter is at zero at its end. -/
theorem countDown_ends : ∀ (cs : List Cycle) (n : Nat) (s : State), s.inputs = cs → busy s = true →
    (countDown cs n s).Ends (fun _ t => Interleaved { s with waitCnt := 0 } t) (fun _ _ => False)
      (fun t => ∃ k, Abandoned { s with waitCnt := k } t) (RefusalToCome s)
  | [], n, s, hi, _ => by
    have : ({ s with inputs := [], waitCnt := 0 } : State) = { s with waitCnt := 0 } := by cases s; simp_all
    simp only [countDown, this]
    exact Interleaved.refl _
  | c :: cs, 0, s, hi, _ => by
    have : ({ s with inputs := c :: cs, waitCnt := 0 } : State) = { s with waitCnt := 0 } := by cases s; simp_all
    simp only [countDown, this]
    exact Interleaved.refl _
  | c :: cs, n + 1, s, hi, hb => by
    simp only [countDown]
    split
    · exact ⟨s.waitCnt, s, rfl, Interleaved.refl s, c, by simp [hi], ‹_›⟩
    · split
      · exact ⟨c, by simp [hi], by simpa using ‹(!c.host.admitted) = true›⟩
      · have ht : Interleaved { s with waitCnt := n } (busyTick c { s with inputs := cs, waitCnt := n }) :=
          busyTick_interleaved (s := { s with waitCnt := n }) hb hi
        have h0 (k : Nat) : Interleaved { s with waitCnt := k }
            { busyTick c { s with inputs := cs, waitCnt := n } with waitCnt := k } :=
          ⟨by rw [ht.same]; rfl, ht.eoc, ht.errKept, ht.errNew, ht.inputs⟩
        have ih := countDown_ends cs n (busyTick c { s with inputs := cs, waitCnt := n }) (busyTick_inputs _ _)
          (ht.busy hb)
        refine ih.mono (fun _ t h => (h0 0).trans h) (fun _ _ h => h) (fun t h => ?_) ht.refusalToCome
        obtain ⟨k, u, h1, h2, h3⟩ := h
        exact ⟨k, u, h1, (h0 k).trans h2, ht.resetToCome h3⟩

/-! ### Stretches of an operation under any inputs and any answers -/

/-- The environment's answers do not depend on what cycles inside an operation may change. -/
theorem Interleaved.drawRead {s t : State} (h : Interleaved s t) (r : Nat) :
    Machine.drawRead r t = Machine.drawRead r s := by
  rw [h.same]; rfl

theorem Interleaved.drawWrite {s t : State} (h : Interleaved s t) : Machine.drawWrite t = Machine.drawWrite s := by
  rw [h.same]; rfl

/-- What reading one byte can do: cycles pass, then its byte, or COMM, with one event and the answer used up; a reset
before the transaction abandons the operation and adds no event. -/
theorem readByte_ends {r : Nat} {s : State} (hb : busy s = true) :
    (readByte r s).Ends
      (fun b t => (drawRead r s).1 = some b ∧ ∃ u, Interleaved s u ∧ t = { u with
        history := s.history ++ [rdEvent s.cfg r b], answers := (drawRead r s).2, draws := s.draws + 1 })
      (fun e t => e = .comm ∧ (drawRead r s).1 = none ∧ ∃ u, Interleaved s u ∧ t = { u with
        history := s.history ++ [rdFailEvent s.cfg r], answers := (drawRead r s).2, draws := s.draws + 1 })
      (Abandoned s) (RefusalToCome s) := by
  refine ((gap_ends' hb).mono (fun _ _ h => h) (fun _ _ h => h.elim) (fun _ h => h) id).bind (fun _ u h => ?_)
  have hc : u.cfg = s.cfg ∧ u.history = s.history ∧ u.draws = s.draws := by rw [h.same]; exact ⟨rfl, rfl, rfl⟩
  cases hx : (drawRead r s).1 with
  | some b =>
    have : busRead r u = (some b, { u with
        history := s.history ++ [rdEvent s.cfg r b], answers := (drawRead r s).2, draws := s.draws + 1 }) := by
      simp only [busRead, h.drawRead r, hx, rdEvent, hc]
    simp only [this]
    exact ⟨rfl, u, h, rfl⟩
  | none =>
    have : busRead r u = (none, { u with
        history := s.history ++ [rdFailEvent s.cfg r], answers := (drawRead r s).2, draws := s.draws + 1 }) := by
      simp only [busRead, h.drawRead r, hx, rdFailEvent, hc]
    simp only [this]
    exact ⟨rfl, trivial, u, h, rfl⟩

/-- What writing a start command can do, as `readByte_ends`. -/
theorem startConversion_ends {b : Byte} {s : State} :
    (startConversion b s).Ends
      (fun _ t => (drawWrite s).1 = true ∧ ∃ u, Interleaved { s with seq := .issue b } u ∧ t = { u with
        seq := .running, history := s.history ++ [startEvent s.cfg b true], answers := (drawWrite s).2,
        draws := s.draws + 1 })
      (fun e t => e = .comm ∧ (drawWrite s).1 = false ∧ ∃ u, Interleaved { s with seq := .issue b } u ∧ t = { u with
        seq := .running, history := s.history ++ [startEvent s.cfg b false], answers := (drawWrite s).2,
        draws := s.draws + 1 })
      (Abandoned { s with seq := .issue b }) (RefusalToCome s) := by
  refine ((gap_ends' (s := { s with seq := .issue b }) rfl).mono (fun _ _ h => h) (fun _ _ h => h.elim)
    (fun _ h => h) id).bind (fun _ u h => ?_)
  have hc : u.cfg = s.cfg ∧ u.history = s.history ∧ u.draws = s.draws := by rw [h.same]; exact ⟨rfl, rfl, rfl⟩
  have hd : Machine.drawWrite u = Machine.drawWrite s := h.drawWrite
  cases hx : (Machine.drawWrite s).1 with
  | true =>
    have : writeStart b u = (true, { u with
        history := s.history ++ [startEvent s.cfg b true], answers := (drawWrite s).2, draws := s.draws + 1 }) := by
      simp only [writeStart, busWrite, hd, hx, startEvent, hc]
    simp only [this]
    exact ⟨trivial, u, h, rfl⟩
  | false =>
    have : writeStart b u = (false, { u with
        history := s.history ++ [startEvent s.cfg b false], answers := (drawWrite s).2, draws := s.draws + 1 }) := by
      simp only [writeStart, busWrite, hd, hx, startEvent, hc]
    simp only [this]
    exact ⟨rfl, trivial, u, h, rfl⟩

/-- What the Wait event and its counter can do: cycles until the counter is at zero; or reset ends it (R93). -/
theorem runWait_ends {us : Nat} {s : State} (hb : busy s = true) :
    (runWait us s).Ends
      (fun _ t => Interleaved { pushEvent (.wait us) s with waitCnt := 0 } t)
      (fun _ _ => False)
      (fun t => ∃ k, Abandoned { pushEvent (.wait us) s with waitCnt := k } t) (RefusalToCome s) :=
  countDown_ends s.inputs _ (pushEvent (.wait us) s) rfl hb

/-- What a wait can do: cycles, its event, and cycles until its counter is at zero; a reset ends it before or after the
event. -/
theorem waitFor_ends {us : Nat} {s : State} (hb : busy s = true) :
    (waitFor us s).Ends
      (fun _ t => ∃ u, Interleaved s u ∧ Interleaved { pushEvent (.wait us) u with waitCnt := 0 } t)
      (fun _ _ => False)
      (fun t => Abandoned s t
        ∨ ∃ u k, Interleaved s u ∧ Abandoned { pushEvent (.wait us) u with waitCnt := k } t) (RefusalToCome s) :=
  ((gap_ends' hb).mono (fun _ _ h => h) (fun _ _ h => h) (fun _ h => .inl h) id).bind fun _ u h =>
    (runWait_ends (h.busy hb)).mono (fun _ _ h2 => ⟨u, h, h2⟩) (fun _ _ h2 => h2) (fun _ ⟨k, h2⟩ => .inr ⟨u, k, h, h2⟩)
      h.refusalToCome

/-- What one event can do: cycles pass, then it happens. -/
theorem emit_ends {e : Event} {s : State} (hb : busy s = true) :
    (emit e s).Ends (fun _ t => ∃ u, Interleaved s u ∧ t = { u with history := s.history ++ [e] })
      (fun _ _ => False) (Abandoned s) (RefusalToCome s) := by
  refine (gap_ends' hb).bind (fun _ u h => ?_)
  have hc : u.history = s.history := by rw [h.same]; rfl
  exact ⟨u, h, by simp [pushEvent, hc]⟩

/-- What one enabled or skipped channel can do (R129): cycles pass, then its event. -/
theorem emitIf_ends {on : Bool} {e : Event} {s : State} (hb : busy s = true) :
    (emitIf on e s).Ends
      (fun _ t => ∃ u, Interleaved s u ∧ t = { u with history := s.history ++ if on then [e] else [] })
      (fun _ _ => False) (Abandoned s) (RefusalToCome s) := by
  cases on with
  | false => exact ⟨s, Interleaved.refl s, by simp⟩
  | true => exact emit_ends hb

/-- A flow that ends in a reset or a refusal only where one is to come ends otherwise if none is. -/
theorem Flow.Ends.goesOn {α : Type} {V : α → State → Prop} {E : Err → State → Prop} {R : State → Prop} {N : Prop}
    {x : Flow α} {s : State} (hr : NoReset s) (ha : Admitted s) (hx : x.Ends V E R N) (hR : ∀ t, R t → ResetToCome s)
    (hN : N → RefusalToCome s) : (∃ a t, x = .val a t ∧ V a t) ∨ (∃ e t, x = .err e t ∧ E e t) := by
  cases x with
  | val a t => exact .inl ⟨a, t, rfl, hx⟩
  | err e t => exact .inr ⟨e, t, rfl, hx⟩
  | rst t => exact (hr.none (hR t hx)).elim
  | ref t => exact (ha.none (hN hx)).elim

/-! ### The dispatch of a STEP (R127) -/

theorem stepStage_temperature {s : State} (h : s.astate = awaitingTemperature) :
    stepStage s = (stageTemperature s).recover stepCommFail := if_pos h

theorem stepStage_pressure {s : State} (h : s.astate = awaitingPressure) :
    stepStage s = (stagePressure s).recover stepCommFail := by
  refine (if_neg ?_).trans (if_pos h)
  intro h'
  exact absurd (h.symm.trans h') (by decide)

theorem stepStage_invalid {s : State} (h : s.astate ≠ awaitingTemperature) (h' : s.astate ≠ awaitingPressure) :
    stepStage s = stageInvalid s := (if_neg h).trans (if_neg h')

theorem stepCommFail_quiet {s : State} (h : s.inputs = []) :
    stepCommFail s = .val () { s with
      err := s.err ||| errMask .comm, history := s.history ++ [.diag .commError (s.astate.setWidth 8)],
      astate := awaitingTemperature } := by
  have := diag_quiet (k := .commError) (v := s.astate.setWidth 8) (s := setErr (errMask .comm) s) h
  simp only [stepCommFail, this, Flow.bind_val]
  rfl

theorem invalidCommFail_quiet {s : State} (h : s.inputs = []) :
    invalidCommFail s = .val () { s with
      err := s.err ||| errMask .comm,
      history := s.history ++ [.diag .commError (BitVec.ofNat 8 (controlReg s.cfg))],
      astate := awaitingTemperature } := by
  have := diag_quiet (k := .commError) (v := BitVec.ofNat 8 (controlReg s.cfg))
    (s := setErr (errMask .comm) { s with astate := awaitingTemperature }) h
  simp only [invalidCommFail, this]
  rfl

/-- What the end of a stage after a failed transaction can do: ERR[0] and the Diag event, with cycles in between. -/
theorem stepCommFail_ends {s : State} (hb : busy s = true) :
    (stepCommFail s).Ends
      (fun _ t => ∃ u, Interleaved (setErr (errMask .comm) s) u ∧ t = { u with
        history := s.history ++ [.diag .commError (s.astate.setWidth 8)], astate := awaitingTemperature })
      (fun _ _ => False) (Abandoned (setErr (errMask .comm) s)) (RefusalToCome s) :=
  (emit_ends (s := setErr (errMask .comm) s) hb).bind fun _ _ ⟨u, h1, h2⟩ => ⟨u, h1, by rw [h2]; rfl⟩

theorem invalidCommFail_ends {s : State} (hb : busy s = true) :
    (invalidCommFail s).Ends
      (fun _ t => ∃ u, Interleaved (setErr (errMask .comm) { s with astate := awaitingTemperature }) u ∧ t = { u with
        history := s.history ++ [.diag .commError (BitVec.ofNat 8 (controlReg s.cfg))] })
      (fun _ _ => False) (Abandoned (setErr (errMask .comm) { s with astate := awaitingTemperature })) (RefusalToCome s) :=
  emit_ends (s := setErr (errMask .comm) { s with astate := awaitingTemperature }) hb

/-! ### What a step can do -/

@[simp] theorem corruptAstate_seq (v : Option (BitVec 2)) (s : State) : (corruptAstate v s).seq = s.seq := by
  unfold corruptAstate
  repeat' split
  all_goals rfl

@[simp] theorem corruptAstate_cfg (v : Option (BitVec 2)) (s : State) : (corruptAstate v s).cfg = s.cfg := by
  unfold corruptAstate
  repeat' split
  all_goals rfl

@[simp] theorem hostAccess_cfg (a : HostAccess) (s : State) : (hostAccess a s).cfg = s.cfg := by
  cases a with
  | idle => rfl
  | read off n => rfl
  | write off n w =>
    simp only [hostAccess, writeReg]
    repeat' split
    all_goals rfl

/-- One step, by its inputs and what the sequencer is at (R68, R126, R150). -/
theorem step_cases {s t : State} (h : step s = .next t) :
    ∃ c s', takeCycle s = (c, s') ∧
      ((c.rst = true ∧ t = doReset s')
      ∨ (c.rst = false ∧ ∃ b i u, s'.seq = .issue b
          ∧ decodeSens s'.cfg b = .ok i
          ∧ exec i (hostAccess c.host (sampleEoc c.eoc (corruptAstate c.corrupt s'))) = .next u
          ∧ t = { u with seq := .idle })
      ∨ (c.rst = false ∧ ∃ w, c.host.command = some w
          ∧ commandWrite s'.eocPend w (sampleEoc c.eoc (corruptAstate c.corrupt s')) = .next t)
      ∨ (c.rst = false ∧ c.host.command = none
          ∧ startOwed s'.eocPend (hostAccess c.host (sampleEoc c.eoc (corruptAstate c.corrupt s'))) = .next t)) := by
  refine ⟨(takeCycle s).1, (takeCycle s).2, rfl, ?_⟩
  have hrun : runCycle (takeCycle s).1 (takeCycle s).2 = .next t := by
    unfold step cycleStep at h
    split at h
    · exact h
    · cases h
  generalize (takeCycle s).1 = c at *
  generalize (takeCycle s).2 = s' at *
  unfold runCycle at hrun
  split at hrun
  · rename_i hr
    exact .inl ⟨hr, by cases hrun; rfl⟩
  · rename_i hr
    have hr : c.rst = false := by simpa using hr
    split at hrun
    · cases hrun
    · refine .inr ?_
      simp only [sampleEoc_seq, corruptAstate_seq] at hrun
      split at hrun
      · rename_i b hb
        refine .inl ⟨hr, b, ?_⟩
        unfold issueCommand at hrun
        split at hrun
        · cases hrun
        · rename_i i hd
          split at hrun
          · rename_i u hu
            refine ⟨i, u, hb, ?_, hu, by cases hrun; rfl⟩
            simpa using hd
          · cases hrun
          · cases hrun
      all_goals
        refine .inr ?_
        split at hrun
        · rename_i w hw
          exact .inl ⟨hr, w, hw, hrun⟩
        · rename_i hw
          exact .inr ⟨hr, hw, hrun⟩

end Sys2Proof.Machine
end

