-- ==== Sys2Proof/Laws/Load.lean ====
section
/-! SUPPORT. What the shared load procedure and the synchronous guard can do (R77 to R80, R85). -/
namespace Sys2Proof.Machine

/-- `t` is `s` after some completed reads of a load, with cycles between them. -/
structure Reading (s t : State) : Prop where
  /-- As `Interleaved`, and the shadow registers, the events and the answers used up. -/
  same : t = { busyChange s t with
    calShadow := t.calShadow, history := t.history, answers := t.answers, draws := t.draws }
  eoc : EocFollows s t
  errKept : NoErrWrite s → s.err &&& t.err = s.err
  errNew : NewErrWithin busyMask s t
  inputs : ∀ c ∈ t.inputs, ∃ d ∈ s.inputs, d.rst = c.rst ∧ d.host = c.host
  /-- Only completed bus reads were added. -/
  events : ∃ es, t.history = s.history ++ es ∧ ∀ e ∈ es, ∃ r b, e = rdEvent s.cfg r b

/-- `t` is `s` after some completed reads of a load and one read that failed. -/
structure ReadingFailed (s t : State) : Prop where
  reading : ∃ u r, Reading s u ∧ t = { u with
    history := u.history ++ [rdFailEvent u.cfg r], answers := t.answers, draws := u.draws + 1 }

/-- `t` is the state after a reset in a load that began at `s`. -/
abbrev LoadAbandoned (s t : State) : Prop :=
  ∃ u, t = doReset { u with inputs := t.inputs } ∧ Reading s u ∧ ResetToCome s

theorem Reading.refl (s : State) : Reading s s :=
  ⟨rfl, EocFollows.refl s, fun _ => BitVec.and_self, newErrWithin_refl _ s, fun c h => ⟨c, h, rfl, rfl⟩, [], by simp,
    by simp⟩

theorem Reading.cfg_eq {s t : State} (h : Reading s t) : t.cfg = s.cfg := by rw [h.same]; rfl

theorem Reading.mode_eq {s t : State} (h : Reading s t) : t.mode = s.mode := by rw [h.same]; rfl

/-- What a load says of the cycles between its reads, as an interleaving of other states. -/
theorem Reading.interleaved {s t : State} (h : Reading s t) : Interleaved s (busyChange s t) :=
  ⟨rfl, h.eoc.congr rfl rfl rfl rfl rfl rfl rfl, h.errKept, h.errNew, h.inputs⟩

theorem Reading.noErrWrite {s t : State} (h : Reading s t) (hr : NoErrWrite s) : NoErrWrite t :=
  h.interleaved.noErrWrite hr

theorem Reading.resetToCome {s t : State} (h : Reading s t) (hr : ResetToCome t) : ResetToCome s :=
  h.interleaved.resetToCome hr

theorem Reading.refusalToCome {s t : State} (h : Reading s t) (hr : RefusalToCome t) : RefusalToCome s :=
  h.interleaved.refusalToCome hr

theorem Reading.trans {s t u : State} (h1 : Reading s t) (h2 : Reading t u) : Reading s u where
  same := by rw [h2.same, h1.same]; rfl
  eoc := h1.eoc.trans h1.mode_eq h2.eoc
  errKept h := and_eq_self_trans (h1.errKept h) (h2.errKept (h1.noErrWrite h))
  errNew := (h1.errNew.trans h2.errNew).mono (by decide)
  inputs c hc := by
    obtain ⟨d, hd, h3, h4⟩ := h2.inputs c hc
    obtain ⟨e, he, h5, h6⟩ := h1.inputs d hd
    exact ⟨e, he, h5.trans h3, h6.trans h4⟩
  events := by
    obtain ⟨es, h3, h4⟩ := h1.events
    obtain ⟨fs, h5, h6⟩ := h2.events
    refine ⟨es ++ fs, by rw [h5, h3, List.append_assoc], fun e he => ?_⟩
    rcases List.mem_append.1 he with he | he
    · exact h4 e he
    · exact h1.cfg_eq ▸ h6 e he

theorem Reading.failed {s t u : State} (h1 : Reading s t) (h2 : ReadingFailed t u) : ReadingFailed s u := by
  obtain ⟨v, r, h3, h4⟩ := h2.reading
  exact ⟨v, r, h1.trans h3, h4⟩

theorem Reading.busy {s t : State} (h : Reading s t) (hb : busy s = true) : busy t = true := by
  rw [h.same]; exact hb

/-- One read of a load. -/
theorem Interleaved.reading {s u : State} (h : Interleaved s u) (r : Nat) (b : Byte) (as : List Answer) (n : Nat) :
    Reading s { u with history := s.history ++ [rdEvent s.cfg r b], answers := as, draws := n } :=
  ⟨by rw [h.same]; rfl, h.eoc, h.errKept, h.errNew, h.inputs, [rdEvent s.cfg r b], rfl, by simp⟩

/-- Cycles of a load with no read. -/
theorem Interleaved.idleReading {s u : State} (h : Interleaved s u) : Reading s u :=
  ⟨by rw [h.same]; rfl, h.eoc, h.errKept, h.errNew, h.inputs, [], by rw [h.same]; simp [busyChange], by simp⟩

/-- One failed read of a load. -/
theorem Interleaved.readingFailed {s u : State} (h : Interleaved s u) (r : Nat) (as : List Answer) :
    ReadingFailed s { u with history := s.history ++ [rdFailEvent s.cfg r], answers := as, draws := s.draws + 1 } := by
  have hc : u.cfg = s.cfg ∧ u.history = s.history ∧ u.draws = s.draws := by rw [h.same]; exact ⟨rfl, rfl, rfl⟩
  exact ⟨u, r, h.idleReading, by simp [hc]⟩

/-- What the load of one coefficient can do. -/
theorem loadCoef_ends {k : Fin 11} {s : State} (hb : busy s = true) :
    (loadCoef k s).Ends (fun _ t => Reading s t) (fun e t => e = .comm ∧ ReadingFailed s t) (LoadAbandoned s)
      (RefusalToCome s) := by
  have one (r : Nat) {s : State} (hb : busy s = true) : (readByte r s).Ends (fun _ t => Reading s t)
      (fun e t => e = .comm ∧ ReadingFailed s t) (LoadAbandoned s) (RefusalToCome s) := by
    refine (readByte_ends hb).mono (fun b t h => ?_) (fun e t h => ?_) (fun t h => ?_) id
    · obtain ⟨-, u, h1, rfl⟩ := h
      exact h1.reading r b _ _
    · obtain ⟨rfl, -, u, h1, rfl⟩ := h
      exact ⟨rfl, h1.readingFailed r _⟩
    · obtain ⟨u, h1, h2, h3⟩ := h
      exact ⟨u, h1, h2.idleReading, h3⟩
  refine (one _ hb).bind fun hi t h => ?_
  refine ((one _ (h.busy hb)).mono (fun _ _ h => h) (fun _ _ h2 => ⟨h2.1, h.failed h2.2⟩) (fun _ h2 => ?_)
    h.refusalToCome).bind fun lo u h2 => h.trans (h2.trans ?_)
  · obtain ⟨v, h3, h4, h5⟩ := h2
    exact ⟨v, h3, h.trans h4, h.resetToCome h5⟩
  · exact ⟨rfl, (EocFollows.refl u).congr rfl rfl rfl rfl rfl rfl rfl, fun _ => BitVec.and_self, newErrWithin_refl _ _,
      fun c h => ⟨c, h, rfl, rfl⟩, [], by simp, by simp⟩

/-- What the loads of some coefficients can do. -/
theorem loadCoefs_ends : ∀ (ks : List (Fin 11)) {s : State}, busy s = true →
    (loadCoefs ks s).Ends (fun _ t => Reading s t) (fun e t => e = .comm ∧ ReadingFailed s t) (LoadAbandoned s)
      (RefusalToCome s)
  | [], s, _ => Reading.refl s
  | k :: ks, s, hb => by
    unfold loadCoefs
    refine (loadCoef_ends hb).bind fun _ t h => ?_
    refine (loadCoefs_ends ks (h.busy hb)).mono (fun _ _ h2 => h.trans h2) (fun _ _ h2 => ⟨h2.1, h.failed h2.2⟩)
      (fun _ h2 => ?_) h.refusalToCome
    obtain ⟨v, h3, h4, h5⟩ := h2
    exact ⟨v, h3, h.trans h4, h.resetToCome h5⟩

/-- What `Load()` can do (R77, R79, R80): nothing once loaded; else its reads and the commit, or a failed read; the shadow
registers are left unspecified. -/
theorem load_ends (s : State) :
    (load s).Ends
      (fun _ t => (s.calValid = true ∧ t = s)
        ∨ (s.calValid = false ∧ ∃ u, Reading (begin s) u ∧ t = { u with
            cal := u.calShadow, calValid := true, calShadow := Config.freeShadow u.draws }))
      (fun e t => s.calValid = false ∧ e = .comm ∧ ∃ u, ReadingFailed (begin s) u ∧ t = { u with
        calShadow := Config.freeShadow u.draws })
      (fun t => s.calValid = false ∧ LoadAbandoned (begin s) t) (RefusalToCome s) := by
  unfold load
  split
  · exact .inl ⟨‹_›, rfl⟩
  · rename_i hv
    have hv : s.calValid = false := by simpa using hv
    have h := loadCoefs_ends coefOrder (s := begin s) rfl
    generalize loadCoefs coefOrder (begin s) = x at h ⊢
    cases x with
    | val a u => exact .inr ⟨hv, u, h, rfl⟩
    | err e u => exact ⟨hv, h.1, u, h.2, rfl⟩
    | rst u => exact ⟨hv, h⟩
    | ref u => exact h

/-- What the guard can do (R85), by MODE. -/
theorem syncGuard_cases (s : State) :
    (s.mode = modeAsync ∧ syncGuard s = .err .mode s) ∨ (s.mode = modeUninit ∧ syncGuard s = .err .notInit s)
      ∨ (s.mode ≠ modeAsync ∧ s.mode ≠ modeUninit ∧ syncGuard s = .val () s) := by
  unfold syncGuard
  split
  · exact .inl ⟨‹_›, rfl⟩
  · split
    · exact .inr (.inl ⟨‹_›, rfl⟩)
    · exact .inr (.inr ⟨‹_›, ‹_›, rfl⟩)

end Sys2Proof.Machine
end

