-- ==== Sys2Proof/Laws/Operands.lean ====
section
/-! SUPPORT. The datapath operators (R12) as Lean's own bit-vector operators, and as operations on the integers they
read. -/
namespace Sys2Proof.Machine

theorem add32_eq (a b : Word) : add32 a b = a + b := by
  apply BitVec.eq_of_toNat_eq
  simp [add32]

theorem sub32_eq (a b : Word) : sub32 a b = a - b := by
  apply BitVec.eq_of_toNat_eq
  simp only [sub32, BitVec.toNat_ofInt, BitVec.toNat_sub]
  have := a.isLt
  have := b.isLt
  omega

theorem mul32_eq (a b : Word) : mul32 a b = a * b := by
  apply BitVec.eq_of_toNat_eq
  simp [mul32]

theorem asr32_eq (a : Word) (n : Nat) : asr32 a n = a.sshiftRight n := by
  simp only [asr32, BitVec.sshiftRight, Int.shiftRight_eq_div_pow]
  rw [Int.fdiv_eq_ediv_of_nonneg _ (by positivity)]
  norm_cast

theorem lsr32_eq (a : Word) (n : Nat) : lsr32 a n = a >>> n := by
  apply BitVec.eq_of_toNat_eq
  simp only [lsr32, BitVec.toNat_ofNat, BitVec.toNat_ushiftRight, Nat.shiftRight_eq_div_pow]
  exact Nat.mod_eq_of_lt (lt_of_le_of_lt (Nat.div_le_self _ _) a.isLt)

theorem shl32_eq (a : Word) (n : Nat) : shl32 a n = a <<< n := by
  apply BitVec.eq_of_toNat_eq
  simp [shl32, Nat.shiftLeft_eq]

theorem sdiv32_eq (a b : Word) : sdiv32 a b = a.sdiv b := by
  apply BitVec.eq_of_toInt_eq
  simp [sdiv32, BitVec.toInt_sdiv]

theorem udiv32_eq (a b : Word) : udiv32 a b = a / b := by
  apply BitVec.eq_of_toNat_eq
  simp only [udiv32, BitVec.toNat_ofNat, BitVec.toNat_udiv]
  exact Nat.mod_eq_of_lt (lt_of_le_of_lt (Nat.div_le_self _ _) a.isLt)

theorem ult32_eq (a b : Word) : ult32 a b = decide (a < b) := rfl

/-- A right shift of the signed reading, which never leaves the range (R12). -/
theorem asr32_toInt (a : Word) (n : Nat) : (asr32 a n).toInt = a.toInt.fdiv (2 ^ n) := by
  rw [asr32_eq, BitVec.toInt_sshiftRight, Int.shiftRight_eq_div_pow, Int.fdiv_eq_ediv_of_nonneg _ (by positivity)]
  norm_cast

/-- A coefficient's signed reading is that of its 16-bit pattern (R78). -/
theorem coef_toInt (cal : Vector Half 11) (k : Fin 11) : (coef cal k).toInt = cal[k].toInt := by
  simp only [coef]
  exact BitVec.toInt_signExtend_of_le (by decide)

/-- A coefficient's signed reading lies in its range (R78). -/
theorem coef_bounds (cal : Vector Half 11) (k : Fin 11) :
    -32768 ≤ (coef cal k).toInt ∧ (coef cal k).toInt ≤ 32767 := by
  rw [coef_toInt]
  have h1 := BitVec.le_toInt (x := cal[k])
  have h2 := BitVec.toInt_lt (x := cal[k])
  constructor <;> omega

end Sys2Proof.Machine
end

