-- ==== Sys2Proof/Laws/PerInstr.lean ====
section
/-! SUPPORT. Statements about every instruction, one lemma per constructor: the encoded word against the opcode table. -/
namespace Sys2Proof.Laws.TableRow

/-- The `mask` of an instruction's row in the opcode table. -/
def mask : Instr → Nat
  | .nop | .loadCal | .initSync | .initAsync | .readUt | .readUp | .compensate | .step => 0xFFFFFFFF
  | .setOss _ => 0xFFFFFFCF
  | .setCb _ => 0xFFFFFE3F
  | .cmdTemp => 0xFF
  | .cmdPres _ => 0x3F

/-- The `match` of an instruction's row in the opcode table. -/
def pattern : Instr → Nat
  | .nop => 0x00000000
  | .loadCal => 0x00000001
  | .initSync => 0x00000002
  | .initAsync => 0x00000003
  | .readUt => 0x00000004
  | .readUp => 0x00000005
  | .compensate => 0x00000006
  | .setOss _ => 0x00000007
  | .setCb _ => 0x00000008
  | .step => 0x00000009
  | .cmdTemp => 0x2E
  | .cmdPres _ => 0x34

/-- Whether a command word or byte is the table's row, under its mask. -/
def matchesRow (m p : Nat) : CmdWord → Bool
  | .host w => w &&& BitVec.ofNat 32 m == BitVec.ofNat 32 p
  | .sens b => b &&& BitVec.ofNat 8 m == BitVec.ofNat 8 p

/-- The encoding of an instruction under the default parameters has the fixed bits of its row. -/
def Statement (i : Instr) : Prop := matchesRow (mask i) (pattern i) (encode Config.default i) = true

theorem nop : Statement .nop := rfl
theorem loadCal : Statement .loadCal := rfl
theorem initSync : Statement .initSync := rfl
theorem initAsync : Statement .initAsync := rfl
theorem readUt : Statement .readUt := rfl
theorem readUp : Statement .readUp := rfl
theorem compensate : Statement .compensate := rfl
theorem setOss (o : BitVec 2) : Statement (.setOss o) := by
  have h : ∀ o : BitVec 2, matchesRow 0xFFFFFFCF 0x00000007 (encode Config.default (.setOss o)) = true := by decide
  exact h o
theorem setCb (m : BitVec 3) : Statement (.setCb m) := by
  have h : ∀ m : BitVec 3, matchesRow 0xFFFFFE3F 0x00000008 (encode Config.default (.setCb m)) = true := by decide
  exact h m
theorem step : Statement .step := rfl
theorem cmdTemp : Statement .cmdTemp := rfl
theorem cmdPres (o : BitVec 2) : Statement (.cmdPres o) := by
  have h : ∀ o : BitVec 2, matchesRow 0x3F 0x34 (encode Config.default (.cmdPres o)) = true := by decide
  exact h o

end Sys2Proof.Laws.TableRow
end

