-- ==== Sys2Proof/Tests/Slice0.lean ====
section
/-! SUPPORT. Tests of the model against the spec's own vectors (95_test_vectors.md) and encodings, the smoke tests of
WellFormed, and a witness of the hypotheses of every obligation that has any. -/
namespace Sys2Proof.Tests
open Sys2Proof.Machine

/-! ### Helpers -/

/-- The default chip with a slow clock, so that a wait is one cycle, and with upsets. -/
def cfg0 : Config := { Config.default with clkHz := 1, admitCorruption := true }

/-- The calibration set CAL-1 of 95_test_vectors.md. -/
def cal1 : Vector Half 11 :=
  #v[0x0198#16, 0xFFB8#16, 0xC7D1#16, 0x7FE5#16, 0x7FF5#16, 0x5A71#16, 0x182E#16, 0x0004#16, 0x8000#16, 0xDDF9#16,
    0x0B34#16]

/-- The most significant bytes of CAL-1. -/
def hi1 (k : Fin 11) : Byte := cal1[k].extractLsb' 8 8

/-- The least significant bytes of CAL-1. -/
def lo1 (k : Fin 11) : Byte := cal1[k].extractLsb' 0 8

/-- A chip just reset, with the given answers to come. -/
def fresh (as : List Answer) : State := { State.reset with cfg := cfg0, answers := as }

/-- A chip loaded with CAL-1 in the given mode and async state, with the given level and answers to come. -/
def chip (mode astate oss : BitVec 2) (as : List Answer) : State :=
  { State.reset with
    cfg := cfg0, cal := cal1, calValid := true, mode := mode, astate := astate, oss := oss, answers := as }

/-- The answers to the 22 reads of CAL-1. -/
def loadAnswers : List Answer := readAnswers (calReads cfg0 hi1 lo1)

/-- The state after an outcome that is a next state. -/
def after (o : Host.Outcome State Fault Refusal) : State :=
  match o with
  | .next t => t
  | .fault _ => State.reset
  | .refused _ => State.reset

/-- Whether an outcome is a next state. -/
def isNext (o : Host.Outcome State Fault Refusal) : Bool :=
  match o with
  | .next _ => true
  | .fault _ => false
  | .refused _ => false

/-- A cycle with a host access and nothing else. -/
def hostCycle (a : HostAccess) : Cycle := { quietCycle false with host := a }

/-- A cycle in which reset acts. -/
def rstCycle : Cycle := { quietCycle false with rst := true }

/-! ### WellFormed: each check refuses an ill-formed term -/

theorem test_config_wf_default : Config.default.wf = true := by decide
theorem test_config_ill_formed : ({ cfg0 with cmdPresBase := 0x74#8 } : Config).wf = false := by decide
theorem test_cmdPres_ill_formed_base : (Instr.cmdPres 1).wf { cfg0 with cmdPresBase := 0x74#8 } = false := by decide
theorem test_cmdPres_ill_formed_clash : (Instr.cmdPres 1).wf { cfg0 with cmdTemp := 0x74#8 } = false := by decide
theorem test_step_refuses_config :
    step { State.reset with cfg := { cfg0 with cmdPresBase := 0x74#8 } } = .refused .configuration := by rfl
theorem test_step_refuses_byte_access :
    step { fresh [] with inputs := [hostCycle (.read 0x04#8 1)] } = .refused .hostAccess := by rfl
theorem test_step_refuses_unaligned :
    step { fresh [] with inputs := [hostCycle (.write 0x06#8 4 0#32)] } = .refused .hostAccess := by rfl

/-! ### Decoding words written out from R63, R64, R69 and R70 -/

theorem test_decode_nop : decodeHost 0b00000000000000000000000_000_00_0000#32 = .ok .nop := by rfl
theorem test_decode_loadCal : decodeHost 0b00000000000000000000000_000_00_0001#32 = .ok .loadCal := by rfl
theorem test_decode_initSync : decodeHost 0b00000000000000000000000_000_00_0010#32 = .ok .initSync := by rfl
theorem test_decode_initAsync : decodeHost 0b00000000000000000000000_000_00_0011#32 = .ok .initAsync := by rfl
theorem test_decode_readUt : decodeHost 0b00000000000000000000000_000_00_0100#32 = .ok .readUt := by rfl
theorem test_decode_readUp : decodeHost 0b00000000000000000000000_000_00_0101#32 = .ok .readUp := by rfl
theorem test_decode_compensate : decodeHost 0b00000000000000000000000_000_00_0110#32 = .ok .compensate := by rfl
theorem test_decode_setOss : decodeHost 0b00000000000000000000000_000_10_0111#32 = .ok (.setOss 2) := by rfl
theorem test_decode_setCb : decodeHost 0b00000000000000000000000_110_00_1000#32 = .ok (.setCb 6) := by rfl
theorem test_decode_step : decodeHost 0b00000000000000000000000_000_00_1001#32 = .ok .step := by rfl
theorem test_decode_cmdTemp : decodeSens Config.default 0b00101110#8 = .ok .cmdTemp := by rfl
theorem test_decode_cmdPres : decodeSens Config.default 0b10_110100#8 = .ok (.cmdPres 2) := by rfl
/-- DEC-2: one word of each case of R67. -/
theorem test_decode_illegal :
    decodeHost 0x0000000F#32 = .error .reservedOpc ∧ decodeHost 0x00000200#32 = .error .rsvNonzero
    ∧ decodeHost 0x00000011#32 = .error .ossfUnused ∧ decodeHost 0x00000047#32 = .error .cbmUnused
    ∧ decodeHost 0x00000038#32 = .error .ossfUnused := by decide
theorem test_decodeTableWord :
    decodeTableWord 32 0x1C8 = some (.setCb 7) ∧ decodeTableWord 8 0x74 = some (.cmdPres 1)
    ∧ decodeTableWord 32 0x10 = none ∧ decodeTableWord 8 0x00 = none := by decide

/-! ### A placed word of every row runs as the first instruction after reset -/

theorem test_first_instruction :
    ([0, 1, 2, 3, 4, 5, 6, 7, 0x1C8, 9].all fun w => isNext (step (State.reset.withFetchWord 32 w))) = true := by
  rfl
theorem test_first_start_command :
    ([0x2E, 0x34, 0xF4].all fun w => isNext (step (State.reset.withFetchWord 8 w))) = true := by
  rfl

/-! ### The operators (OP-1 to OP-15) and the compensation (CMP-*) -/

theorem test_operators :
    sdiv32 (BitVec.ofInt 32 (-7)) 2#32 = 0xFFFFFFFD#32 ∧ sdiv32 7#32 (BitVec.ofInt 32 (-2)) = 0xFFFFFFFD#32
    ∧ asr32 (BitVec.ofInt 32 (-7)) 1 = 0xFFFFFFFC#32 ∧ shl32 (BitVec.ofInt 32 (-8711)) 11 = 0xFEEFC800#32
    ∧ mul32 46341#32 46341#32 = 0x80001219#32 ∧ lsr32 0xFFFFFFFF#32 8 = 0x00FFFFFF#32
    ∧ asr32 0xFFFFFFFF#32 8 = 0xFFFFFFFF#32 ∧ ult32 0xFEBE0A20#32 0x80000000#32 = false := by decide
/-- CMP-1. -/
theorem test_comp_main : comp cal1 27898#16 23843#32 0 = some (150#32, 69964#32) := by decide
/-- CMP-B6W: the temperature path wraps. -/
theorem test_comp_wraps :
    comp (cal1.set 10 0xED7A#16) 27898#16 23843#32 0 = some (0xFFEEFDA8#32, 0x000076E8#32) := by decide
/-- CMP-AC4-1: an unsigned quotient of 2^31 or more. -/
theorem test_comp_big_quotient :
    comp (cal1.set 3 0x0001#16) 27898#16 23843#32 0 = some (150#32, 0x8B99987C#32) := by decide
/-- CMP-B7GE: the unsigned comparison of C16. -/
theorem test_comp_unsigned_branch : comp cal1 27898#16 0#32 0 = some (150#32, 0x0003DB28#32) := by decide
/-- CMP-UT8000 and CMP-OSS3. -/
theorem test_comp_corners :
    comp cal1 0x8000#16 23843#32 0 = some (0xFFFFF26F#32, 0x0000A4BD#32)
    ∧ comp cal1 27898#16 190744#32 3 = some (150#32, 0x0001114B#32) := by decide
/-- CMP-DIV0C2 and CMP-DIV0C16. -/
theorem test_comp_div0 :
    comp (cal1.set 10 0xED79#16) 27898#16 23843#32 0 = none ∧ comp (cal1.set 3 0#16) 27898#16 23843#32 0 = none := by
  decide
/-- SYN-6. -/
theorem test_raw_pressure :
    rawPressure 0x5D#8 0x23#8 0x00#8 3 = 0x0002E918#32 ∧ rawPressure 0xFF#8 0xFF#8 0xFF#8 1 = 0x1FFFF#32
    ∧ rawPressure 0#8 0#8 1#8 3 = 0#32 := by decide
/-- SYN-10: the count of a wait at 32768 Hz. -/
theorem test_wait_ticks :
    waitTicks { cfg0 with clkHz := 32768 } 4500 = 148 ∧ waitTicks { cfg0 with clkHz := 32768 } 25500 = 836 := by decide

/-! ### Instructions -/

/-- DEC-3. -/
theorem test_nop :
    exec .nop { fresh [] with lastResult := 3#4, err := 4#8 } = .next { fresh [] with lastResult := 0#4, err := 4#8 } := by
  rfl
/-- CAL-1. -/
theorem test_loadCal :
    (after (exec .loadCal (fresh loadAnswers))).cal = cal1 ∧ (after (exec .loadCal (fresh loadAnswers))).calValid = true
    ∧ (after (exec .loadCal (fresh loadAnswers))).history.length = 22 := by decide
/-- CAL-3: the fifth read fails. -/
theorem test_loadCal_fails :
    let t := after (exec .loadCal (fresh (loadAnswers.take 4 ++ [.fail])))
    t.lastResult = 1#4 ∧ t.err = 1#8 ∧ t.calValid = false ∧ t.cal = State.reset.cal ∧ t.history.length = 5
    ∧ t.history[4]? = some (.busRd 0x77#7 0xAE none) := by decide
/-- SYN-1: STATUS after INIT_SYNC. -/
theorem test_initSync :
    statusWord (after (exec .initSync (fresh loadAnswers))) = 0x00001006#32 := by decide
/-- SYN-3. -/
theorem test_initSync_misuse :
    exec .initSync (chip 2 0 1 []) = .next { chip 2 0 1 [] with lastResult := 2#4, err := 2#8 } := by rfl
/-- ASY-1: STATUS after INIT_ASYNC. -/
theorem test_initAsync :
    let t := after (exec .initAsync { fresh (loadAnswers ++ [.ack]) with cbEn := 7#3 })
    statusWord t = 0x0001D00A#32 ∧ t.history.getLast? = some (.busWr 0x77#7 0xF4 0x2E#8 true) := by decide
/-- ASY-14. -/
theorem test_initAsync_misuse :
    exec .initAsync (chip 1 0 1 []) = .next { chip 1 0 1 [] with lastResult := 2#4, err := 2#8 } := by rfl
/-- SYN-4. -/
theorem test_readUt :
    let t := after (exec .readUt (chip 1 0 1 [.ack, .data 0xF6 0x6C#8, .data 0xF7 0xFA#8]))
    t.utReg = 0x6CFA#16 ∧ t.lastResult = 0#4
    ∧ t.history = [.busWr 0x77#7 0xF4 0x2E#8 true, .wait 4500, .busRd 0x77#7 0xF6 (some 0x6C#8),
        .busRd 0x77#7 0xF7 (some 0xFA#8)] := by decide
/-- R46: a halfword write in the wait of READ_UT is refused. -/
theorem test_readUt_refuses_access :
    exec .readUt { chip 1 0 1 [.ack] with inputs := [quietCycle false, quietCycle false, hostCycle (.write 0x0C#8 2 1#32)] }
      = .refused .hostAccess := by rfl
/-- R174: events that happen at once, so that no cycle passes and the next command is not discarded. -/
theorem test_readUt_at_once :
    let t := after (exec .readUt { chip 1 0 1 [.ack, .data 0xF6 0x6C#8, .data 0xF7 0xFA#8] with
      inputs := [{ quietCycle false with atOnce := 2 }, { hostCycle (.write 0x00#8 4 0#32) with atOnce := 2 }] })
    t.utReg = 0x6CFA#16 ∧ t.err = 0#8 ∧ t.inputs.length = 1 := by decide
/-- DEC-4: a CMD write in the wait of READ_UT is discarded. -/
theorem test_readUt_busy :
    let t := after (exec .readUt { chip 1 0 1 [.ack, .data 0xF6 0x6C#8, .data 0xF7 0xFA#8] with
      inputs := [quietCycle false, quietCycle false, hostCycle (.write 0x00#8 4 0x37#32)] })
    t.utReg = 0x6CFA#16 ∧ t.lastResult = 0#4 ∧ t.err = 0x40#8 ∧ t.oss = 1#2 := by decide
/-- SYN-5, OSS = 3. -/
theorem test_readUp :
    let t := after (exec .readUp (chip 1 0 3 [.ack, .data 0xF6 0x5D#8, .data 0xF7 0x23#8, .data 0xF8 0#8]))
    t.upReg = 0x0002E918#32 ∧ t.history.take 2 = [.busWr 0x77#7 0xF4 0xF4#8 true, .wait 25500] := by decide
/-- SYN-8. -/
theorem test_readUp_fails :
    let t := after (exec .readUp (chip 1 0 0 [.ack, .data 0xF6 0x5D#8, .fail]))
    t.lastResult = 1#4 ∧ t.err = 1#8 ∧ t.upReg = 0#32 ∧ t.history.length = 4 := by decide
/-- CMP-1 through COMPENSATE, in UNINIT after a load. -/
theorem test_compensate :
    let t := after (exec .compensate { chip 0 0 0 [] with utReg := 27898#16, upReg := 23843#32 })
    t.tReg = 0x00000096#32 ∧ t.pReg = 0x0001114C#32 ∧ t.resValid = true ∧ t.lastResult = 0#4 := by decide
/-- CMP-NOTINIT. -/
theorem test_compensate_notInit :
    exec .compensate (fresh []) = .next { fresh [] with lastResult := 3#4, err := 4#8 } := by rfl
/-- R137. -/
theorem test_setOss : exec (.setOss 3) (fresh []) = .next { fresh [] with oss := 3#2 } := by rfl
/-- ASY-9. -/
theorem test_setOss_locked :
    exec (.setOss 2) (chip 2 1 1 []) = .next { chip 2 1 1 [] with lastResult := 6#4, err := 0x20#8 } := by rfl
/-- R138. -/
theorem test_setCb : exec (.setCb 7) (fresh []) = .next { fresh [] with cbEn := 7#3 } := by rfl
/-- ASY-12: the STEP is owed after its command, and runs in a later cycle. -/
theorem test_step_command :
    let t := after (step ((chip 2 0 1 [.data 0xF6 0x6C#8, .data 0xF7 0xFA#8, .ack]).withFetchWord 32 9))
    t.eocPend = true ∧ t.history = [] ∧ (after (step t)).astate = 1#2 ∧ (after (step t)).utBuf = 0x6CFA#16 := by decide
/-- ASY-12, second part. -/
theorem test_step_command_misuse :
    exec .step (chip 1 0 1 []) = .next { chip 1 0 1 [] with lastResult := 2#4, err := 2#8 } := by rfl
/-- R69. -/
theorem test_cmdTemp : (after (exec .cmdTemp (fresh [.ack]))).history = [.busWr 0x77#7 0xF4 0x2E#8 true] := by decide
/-- R70. -/
theorem test_cmdPres :
    (after (exec (.cmdPres 2) (fresh [.fail]))).history = [.busWr 0x77#7 0xF4 0xB4#8 false] := by decide

/-! ### The asynchronous machine -/

/-- ASY-3: a pressure stage with all channels enabled. -/
theorem test_stage_pressure :
    let t := after (asyncStep { chip 2 1 1 [.data 0xF6 0x5D#8, .data 0xF7 0x23#8, .data 0xF8 0#8, .ack] with
      utBuf := 0x6CFA#16, cbEn := 7#3 })
    t.history.drop 3 = [.temp 27898#16 150#32, .press 47686#32 69962#32, .alt 69962#32,
      .busWr 0x77#7 0xF4 0x2E#8 true] ∧ t.pReg = 0x0001114A#32 ∧ t.astate = 0#2 := by decide
/-- ASY-6. -/
theorem test_stage_temperature_fails :
    (after (asyncStep (chip 2 0 1 [.data 0xF6 0x6C#8, .fail]))).history =
      [.busRd 0x77#7 0xF6 (some 0x6C#8), .busRd 0x77#7 0xF7 none, .diag .commError 0#8] := by decide
/-- ASY-8: an upset and its recovery. -/
theorem test_upset_recovers :
    let s := { chip 2 0 1 [.ack] with
      inputs := [{ quietCycle false with corrupt := some 3#2 }, { quietCycle true with corrupt := none }] }
    let t := after (step (after (step (after (step s)))))
    t.history = [.corrupt 3#2, .diag .invalidState 3#8, .busWr 0x77#7 0xF4 0x2E#8 true] ∧ t.err = 0x80#8
    ∧ t.astate = 0#2 := by decide
/-- ASY-10: two edges while a STEP runs make one further STEP. -/
theorem test_edges_merge :
    let s := { chip 2 0 1 [.data 0xF6 0x6C#8, .data 0xF7 0xFA#8, .ack] with
      eocPend := true, inputs := quietCycle false :: ([true, false, true].map quietCycle) }
    (after (step s)).eocPend = true ∧ (after (step s)).astate = 1#2 := by decide
/-- R59, R131: a host write between the failed read and its Diag event sees and clears ERR[0]. -/
theorem test_host_before_diag :
    let s := { chip 2 0 1 [.fail] with
      inputs := [quietCycle false, hostCycle (.read 0x08#8 4), hostCycle (.write 0x08#8 4 1#32)].map
        fun c => { c with seqDone := c.host != .read 0x08#8 4 } }
    let t := after (asyncStep s)
    t.history = [.busRd 0x77#7 0xF6 none, .diag .commError 0#8] ∧ t.reads = [(0x08#8, 1#32)] ∧ t.err = 0#8 := by decide
/-- ASY-11: an edge outside async mode is ignored. -/
theorem test_edge_ignored :
    (after (step { chip 1 0 1 [] with inputs := [quietCycle true] })).eocPend = false := by decide
/-- DEC-6: an ERR set wins over a clear in the same cycle. -/
theorem test_set_wins :
    (after (step { chip 2 3 1 [.ack] with
      eocPend := true, inputs := [hostCycle (.write 0x08#8 4 0x80#32)] })).err = 0x80#8 := by decide

/-! ### The register window -/

/-- DEC-7, DEC-5 and DEC-8. -/
theorem test_window :
    readReg 0x04#8 State.reset = 0x00001000#32 ∧ readReg 0x00#8 State.reset = 0#32 ∧ readReg 0x4C#8 State.reset = 0#32
    ∧ (writeReg 0x08#8 0x07#32 { fresh [] with err := 0x17#8 }).err = 0x10#8
    ∧ (writeReg 0x0C#8 0xABCD6CFA#32 (fresh [])).utReg = 0x6CFA#16
    ∧ readReg 0x24#8 (chip 1 0 1 []) = 0x0000FFB8#32 := by decide
/-- R45: the window at a base address. -/
theorem test_window_base :
    hostOffset 0x40000000 0x40000018 = some 0x18#8 ∧ hostOffset 0x40000000 0x40000100 = none := by decide

/-! ### The host's side -/

/-- HC-3 and the °F formula of HC-2. -/
theorem test_conversions :
    pressureHPa .binary32 69964#32 = .num false (6996400146484375 / 10000000000000) ∧ tempFReal 15 = 59 := by
  decide +kernel
/-- IEEE 754 binary32: the greatest finite value and the overflow beyond it, the least subnormal and half of it. -/
theorem test_float_range :
    fl .binary32 (2 ^ 128 - 2 ^ 103) = .inf false ∧ fl .binary32 (-(2 ^ 128 - 2 ^ 104)) = .num true (2 ^ 128 - 2 ^ 104)
    ∧ fl .binary32 (1 / 2 ^ 149) = .num false (1 / 2 ^ 149) ∧ fl .binary32 (1 / 2 ^ 150) = .num false 0 := by
  decide +kernel
/-- R73: the expansions of RESULT and WAIT_IDLE at line 1 run on a host that starts at line 0 and find LAST_RESULT. -/
theorem test_script :
    (match runLines ([.cmd .readUt] ++ waitIdle 1 ++ resultLines 0 ++ [.halt]) 8
        (hostStart (Vector.replicate 8 7#32) (fresh [])) with
    | .next r => runEnded r && r.regs[0] == 3#32
    | .fault _ => false
    | .refused _ => false) = true := by decide
/-- R171: the STEP that an edge before HALT owes runs before the final state. -/
theorem test_final_state :
    (finalState [.envEoc, .halt] 3 (hostStart (Vector.replicate 8 0#32) (chip 2 0 1 [.fail]))).map (·.err)
      = some 1#8
    ∧ finalState [.envEoc, .halt] 2 (hostStart (Vector.replicate 8 0#32) (chip 2 0 1 [.fail])) = none := by decide

/-! ### Witnesses: the hypotheses of each obligation are met together -/

theorem test_hyp_EncodedInstructionDecodes : (Instr.cmdPres 3).wf Config.default = true := by decide
theorem test_hyp_DecodedWordReencodes :
    Config.default.wf = true ∧ decode Config.default (.sens 0xF4#8) = .ok (.cmdPres 3)
    ∧ decode Config.default (.host 0x1C8#32) = .ok (.setCb 7) := by decide
theorem test_hyp_PressureStartByte :
    cfg0.wf = true ∧ ({ cfg0 with cmdPresBase := 0x40#8 } : Config).cmdPresBase.extractLsb' 6 2 ≠ 0#2 := by decide

/-- A cycle in which the host writes SET_OSS 3, with a rising edge and an upset. -/
def busyBodyCycle : Cycle :=
  { quietCycle true with host := .write offCmd 4 0x37#32, corrupt := some 0#2 }

theorem test_hyp_StepRunsDecodedCommand :
    let s : State := { chip 2 0 1 [] with inputs := [busyBodyCycle, quietCycle false] }
    (s.cfg.wf = true ∧ s.seq = .idle ∧ s.inputs = busyBodyCycle :: [quietCycle false] ∧ busyBodyCycle.rst = false
      ∧ busyBodyCycle.host = .write offCmd 4 0x37#32 ∧ decodeHost 0x37#32 = .ok (.setOss 3))
    ∧ decodeHost (BitVec.ofNat 32 9) = .ok .step := by decide
theorem test_hyp_StepRunsStartCommand :
    let s := chip 1 0 1 [.ack]
    s.cfg.wf = true ∧ decodeSens s.cfg (BitVec.ofNat 8 0xF4) = .ok (.cmdPres 3)
    ∧ isNext (exec (.cmdPres 3) { s with seq := .issue (BitVec.ofNat 8 0xF4) }) = true := by decide

/-- A state that meets the invariant, in async mode with a STEP owed. -/
theorem asyncChip_invariant : MachineInv { chip 2 1 1 [.fail] with eocPend := true } := by
  constructor <;> decide

theorem test_hyp_StepKeepsInvariant :
    MachineInv { chip 2 1 1 [.fail] with eocPend := true }
    ∧ step { chip 2 1 1 [.fail] with eocPend := true }
        = .next (after (step { chip 2 1 1 [.fail] with eocPend := true })) :=
  ⟨asyncChip_invariant, rfl⟩
theorem test_hyp_ResetOverridesAndAbandons :
    (({ fresh [] with inputs := [rstCycle] } : State).inputs = rstCycle :: [] ∧ rstCycle.rst = true ∧ rstCycle.atOnce = 0
      ∧ cfg0.wf = true)
    ∧ ((fresh []).calValid = false ∧ (fresh []).mode ≠ modeAsync ∧ (fresh []).mode ≠ modeSync)
    ∧ ((chip 1 0 1 []).mode = modeSync ∧ (chip 1 0 1 []).calValid = true)
    ∧ (∀ d ∈ [rstCycle, { rstCycle with atOnce := 1 }],
      let s : State := { chip 1 0 1 [.ack] with inputs := [quietCycle false, d] }
      s.inputs = quietCycle false :: [d] ∧ (quietCycle false).rst = false
      ∧ (quietCycle false).host.admitted = true ∧ (quietCycle false).seqDone = true ∧ (quietCycle false).atOnce = 0
      ∧ d.rst = true ∧ s.mode = modeSync ∧ s.answers = .ack :: [] ∧ 0 < s.cfg.clkHz) := by decide
theorem test_hyp_OwedStepStarts :
    let c := hostCycle (.write 0x0C#8 4 5#32)
    let s : State := { chip 2 0 1 [] with eocPend := true, inputs := [c] }
    s.cfg.wf = true ∧ s.seq = .idle ∧ s.mode = modeAsync ∧ s.eocPend = true ∧ s.inputs = c :: [] ∧ c.rst = false
    ∧ c.corrupt = none ∧ c.host.admitted = true ∧ c.host.command = none
    ∧ (hostCycle (.write offCmd 4 0x0A#32)).host = .write offCmd 4 0x0A#32
    ∧ decodeHost 0x0A#32 = .error .reservedOpc := by decide
/-- ASY-15. -/
theorem test_hyp_CommandBeatsOwedStep :
    let c := hostCycle (.write offCmd 4 (0x00000007#32 ||| ((3#2 : BitVec 2).setWidth 32 <<< 4)))
    let s : State := { chip 2 0 1 [] with eocPend := true, inputs := [c] }
    s.cfg.wf = true ∧ s.seq = .idle ∧ s.mode = modeAsync ∧ s.astate = awaitingTemperature ∧ s.eocPend = true
    ∧ s.inputs = c :: [] ∧ c.rst = false ∧ c.corrupt = none
    ∧ c.host = .write offCmd 4 (0x00000007#32 ||| ((3#2 : BitVec 2).setWidth 32 <<< 4)) := by decide
theorem test_hyp_IdleCycleOnlySamples :
    let s : State := { chip 2 0 1 [] with inputs := [hostCycle (.read 0xFC#8 4)] }
    s.cfg.wf = true ∧ s.seq = .idle ∧ s.eocPend = false ∧ s.inputs = hostCycle (.read 0xFC#8 4) :: []
    ∧ (hostCycle (.read 0xFC#8 4)).rst = false ∧ (hostCycle (.read 0xFC#8 4)).corrupt = none
    ∧ (0xFC#8).toNat % 4 = 0 ∧ (quietCycle true).host = .idle := by decide
theorem test_hyp_UpsetNeedsParameter :
    let c : Cycle := { quietCycle false with corrupt := some 3#2 }
    let s : State := { chip 2 0 1 [] with inputs := [c] }
    s.cfg.wf = true ∧ s.seq = .idle ∧ s.eocPend = false ∧ s.inputs = c :: [] ∧ c.rst = false ∧ c.corrupt = some 3#2
    ∧ c.host = .idle ∧ c.eoc = false := by decide
theorem test_hyp_SubwordAccessRefused :
    let c := hostCycle (.write 0x08#8 2 0#32)
    let s : State := { fresh [] with inputs := [c] }
    s.cfg.wf = true ∧ s.inputs = c :: [] ∧ c.rst = false ∧ c.atOnce = 0 ∧ c.host.admitted = false
    ∧ s.calValid = false ∧ s.mode ≠ modeAsync ∧ s.mode ≠ modeSync
    ∧ (chip 1 0 1 []).mode = modeSync ∧ (chip 1 0 1 []).calValid = true := by decide
theorem test_hyp_ReservedAndReadOnlyOffsets :
    ((0x1C#8).toNat % 4 = 0 ∧ (0x1C#8).toNat = 0x1C) ∧ ((0x4C#8).toNat % 4 = 0 ∧ 0x4C ≤ (0x4C#8).toNat)
    ∧ ((0xFC#8).toNat % 4 = 0 ∧ 0x4C ≤ (0xFC#8).toNat) ∧ ((0x48#8).toNat % 4 = 0 ∧ (0x48#8).toNat ≤ 0x48)
    ∧ ((0x20#8).toNat % 4 = 0 ∧ 0x20 ≤ (0x20#8).toNat) ∧ (0x18#8).toNat = 0x18 := by decide
theorem test_hyp_DataRegistersSeenByHost :
    busy (fresh []) = false ∧ busy { fresh [] with seq := .running } = true := by decide
theorem test_hyp_ErrWriteOneToClear :
    let c := hostCycle (.write 0x08#8 4 0x80#32)
    let s : State := { chip 2 3 1 [.ack] with eocPend := true, inputs := [c] }
    7 < 8 ∧ s.cfg.wf = true ∧ s.seq = .idle ∧ s.mode = modeAsync ∧ s.eocPend = true ∧ s.astate = 3#2
    ∧ s.inputs = [c] ∧ c.rst = false ∧ c.corrupt = none ∧ c.host = .write 0x08#8 4 0x80#32 := by decide
theorem test_hyp_BusyWritesRejected : busy { fresh [] with seq := .running } = true := by decide
theorem test_hyp_SetOssCompletesOrLocks :
    ¬((chip 2 0 1 []).mode = modeAsync ∧ (chip 2 0 1 []).astate = awaitingPressure)
    ∧ ((chip 2 1 1 []).mode = modeAsync ∧ (chip 2 1 1 []).astate = awaitingPressure)
    ∧ busy { fresh [] with seq := .running } = true := by decide
theorem test_hyp_StepCommandOwesStep : (chip 2 0 1 []).mode = modeAsync ∧ (chip 1 0 1 []).mode ≠ modeAsync := by decide
theorem test_hyp_IllegalWordOnlyReports :
    (fresh []).cfg.wf = true ∧ (fresh []).eocPend = false ∧ (fresh []).seq = .idle
    ∧ decodeHost 0x80000001#32 = .error .rsvNonzero ∧ decodeHost (BitVec.ofNat 32 0x0A) = .error .reservedOpc := by decide
theorem test_hyp_StartCommandsWriteOneByte : (fresh [.ack, .fail]).answers = .ack :: [.fail] := by decide
theorem test_hyp_LoadIsIdempotent :
    (chip 0 0 1 [.ack]).calValid = true ∧ (chip 0 0 1 [.ack]).mode ≠ modeAsync ∧ (chip 0 0 1 [.ack]).mode ≠ modeSync
    ∧ (chip 0 0 1 [.ack]).inputs = [] ∧ (chip 0 0 1 [.ack]).answers = .ack :: []
    ∧ (chip 2 0 1 [.fail]).mode ≠ modeSync ∧ (chip 2 0 1 [.fail]).answers = .fail :: [] := by decide
/-- A load from reset, followed by a start command. -/
theorem test_hyp_LoadCalLoads :
    let s := fresh (readAnswers (calReads cfg0 hi1 lo1) ++ [.fail])
    s.inputs = [] ∧ s.calValid = false ∧ s.answers = readAnswers (calReads s.cfg hi1 lo1) ++ [.fail]
    ∧ s.mode ≠ modeAsync ∧ s.mode ≠ modeSync := by decide
theorem test_hyp_InitSyncLoadsAndSelects :
    let s := fresh (readAnswers (calReads cfg0 hi1 lo1))
    (s.inputs = [] ∧ s.calValid = false ∧ s.mode ≠ modeAsync
      ∧ s.answers = readAnswers (calReads s.cfg hi1 lo1) ++ []) ∧ (chip 2 0 1 []).mode = modeAsync := by decide
theorem test_hyp_InitAsyncLoadsAndStarts :
    let s := fresh (readAnswers (calReads cfg0 hi1 lo1) ++ [.ack])
    (s.inputs = [] ∧ s.calValid = false ∧ s.mode ≠ modeSync
      ∧ s.answers = readAnswers (calReads s.cfg hi1 lo1) ++ .ack :: []) ∧ (chip 1 0 1 []).mode = modeSync := by decide
/-- The first and the last of the 22 reads fail. -/
theorem test_hyp_FailedLoadLeavesCal :
    let s (n : Nat) := fresh (readAnswers ((calReads cfg0 hi1 lo1).take n) ++ [.fail])
    (∀ n ∈ [0, 21], (s n).inputs = [] ∧ (s n).calValid = false
      ∧ (s n).answers = readAnswers ((calReads (s n).cfg hi1 lo1).take n) ++ .fail :: []
      ∧ (s n).mode ≠ modeAsync ∧ (s n).mode ≠ modeSync)
    ∧ (calReads cfg0 hi1 lo1)[0]? = some (0xAA, 0x01#8) ∧ (calReads cfg0 hi1 lo1)[21]? = some (0xBF, 0x34#8) := by decide

/-- A chip with an edge and two host writes to come, none of them a reset. -/
def interleaved (mode astate : BitVec 2) (as : List Answer) : State :=
  { chip mode astate 1 as with
    inputs := [quietCycle true, hostCycle (.write 0x00#8 4 0#32), hostCycle (.write 0x0C#8 4 7#32)] }

theorem test_hyp_LoadersFrame :
    NoReset { interleaved 0 0 [] with calValid := false } ∧ Admitted { interleaved 0 0 [] with calValid := false }
    ∧ (interleaved 0 0 []).calValid = true := by
  unfold NoReset Admitted; decide
theorem test_hyp_SyncGuardFailsExplicitly :
    (chip 2 0 1 []).mode = modeAsync ∧ (fresh []).mode = modeUninit ∧ (Instr.readUp = .readUt ∨ Instr.readUp = .readUp) := by
  decide
theorem test_hyp_ReadUtResult :
    (∀ as ∈ [[.ack, .data (resultReg cfg0 0) 0x6C#8, .data (resultReg cfg0 1) 0xFA#8], [.fail], [.ack, .fail],
        [.ack, .data (resultReg cfg0 0) 0x6C#8, .fail]],
      (chip 1 0 1 as).inputs = [] ∧ (chip 1 0 1 as).mode = modeSync ∧ (chip 1 0 1 as).answers = as)
    ∧ (chip 1 0 1 []).cfg = cfg0 := by decide
theorem test_hyp_ReadUpResult :
    ∀ as ∈ [[.ack, .data (resultReg cfg0 0) 0x5D#8, .data (resultReg cfg0 1) 0x23#8, .data (resultReg cfg0 2) 0#8],
        [.fail], [.ack, .fail], [.ack, .data (resultReg cfg0 0) 0x5D#8, .fail],
        [.ack, .data (resultReg cfg0 0) 0x5D#8, .data (resultReg cfg0 1) 0x23#8, .fail]],
      (chip 1 0 3 as).inputs = [] ∧ (chip 1 0 3 as).mode = modeSync ∧ (chip 1 0 3 as).answers = as := by decide
theorem test_hyp_SyncReadsAreUndisturbed :
    let as : List Answer := [.ack, .data (resultReg cfg0 0) 1#8, .data (resultReg cfg0 1) 2#8,
      .data (resultReg cfg0 2) 3#8]
    NoReset (interleaved 1 0 as) ∧ Admitted (interleaved 1 0 as) ∧ (interleaved 1 0 as).mode = modeSync ∧ (interleaved 1 0 as).cfg = cfg0
    ∧ (interleaved 1 0 as).answers = .ack :: .data (resultReg cfg0 0) 1#8 :: .data (resultReg cfg0 1) 2#8
        :: .data (resultReg cfg0 2) 3#8 :: [] := by
  unfold NoReset Admitted; decide
theorem test_hyp_SyncCommandsFrame : NoReset (interleaved 1 0 [.ack]) ∧ Admitted (interleaved 1 0 [.ack]) := by
  unfold NoReset Admitted; decide
theorem test_hyp_CompensateResult :
    (fresh []).calValid = false
    ∧ (∀ is ∈ [[], (interleaved 2 0 []).inputs],
      let s : State := { chip 2 0 0 [] with utReg := 27898#16, upReg := 23843#32, inputs := is }
      let z : State := { s with cal := cal1.set 10 0xED79#16 }
      s.calValid = true ∧ s.inputs = is ∧ NoReset s ∧ Admitted s
      ∧ comp s.cal s.utReg s.upReg s.oss = some (150#32, 69964#32)
      ∧ z.calValid = true ∧ z.inputs = is ∧ NoReset z ∧ Admitted z ∧ comp z.cal z.utReg z.upReg z.oss = none) := by
  unfold NoReset Admitted; decide
theorem test_hyp_SecondTemperatureTermExact :
    compDivisor (cal1.set 10 0xED79#16) 27898#16 = 0#32 ∧ compDivisor cal1 27898#16 ≠ 0#32
    ∧ compDivisor (cal1.set 10 0xED78#16) 27898#16 = 0xFFFFFFFF#32 := by decide
theorem test_hyp_PressureScaleRange :
    (cal1.set 3 0#16)[3] = 0#16
    ∧ (compX3b (cal1.set 2 0xC000#16 |>.set 6 0#16) 65536#32).toInt = -32768 := by decide
theorem test_hyp_ExampleWordsDecode : (Instr.step, 0x9#32) ∈ [(Instr.nop, 0x0#32), (.step, 0x9#32)] := by decide
theorem test_hyp_PressureQuotientUnsigned :
    compB4 (cal1.set 3 0#16) (compB6 (compB5 (cal1.set 3 0#16) 27898#16)) = 0#32 ∧
    (0x7FFFFFFF#32).toNat < 2 ^ 31 ∧ 2 ^ 31 ≤ (0x80000000#32).toNat ∧ (1#32 : Word) ≠ 0#32 := by decide
theorem test_hyp_StageTemperatureOutcomes :
    ∀ as ∈ [[.data (resultReg cfg0 0) 1#8, .data (resultReg cfg0 1) 2#8, .ack], [.fail],
        [.data (resultReg cfg0 0) 1#8, .fail], [.data (resultReg cfg0 0) 1#8, .data (resultReg cfg0 1) 2#8, .fail]],
      (chip 2 0 1 as).inputs = [] ∧ (chip 2 0 1 as).astate = awaitingTemperature ∧ (chip 2 0 1 as).answers = as := by
  decide
theorem test_hyp_StagePressureOutcomes :
    let as : List Answer := [.data (resultReg cfg0 0) 0x5D#8, .data (resultReg cfg0 1) 0x23#8,
      .data (resultReg cfg0 2) 0#8, .ack]
    let s : State := { chip 2 1 0 as with utBuf := 27898#16 }
    let z : State := { s with cal := cal1.set 3 0#16 }
    s.inputs = [] ∧ s.astate = awaitingPressure ∧ s.answers = as
    ∧ comp s.cal s.utBuf (rawPressure 0x5D#8 0x23#8 0#8 s.oss) s.oss = some (150#32, 69964#32)
    ∧ z.inputs = [] ∧ z.astate = awaitingPressure ∧ z.answers = as
    ∧ comp z.cal z.utBuf (rawPressure 0x5D#8 0x23#8 0#8 z.oss) z.oss = none := by decide
theorem test_hyp_StagePressureFailures :
    (∀ as ∈ [[.fail], [.data (resultReg cfg0 0) 0x5D#8, .fail],
        [.data (resultReg cfg0 0) 0x5D#8, .data (resultReg cfg0 1) 0x23#8, .fail]],
      (chip 2 1 0 as).inputs = [] ∧ (chip 2 1 0 as).astate = awaitingPressure ∧ (chip 2 1 0 as).answers = as)
    ∧ (let as : List Answer := [.data (resultReg cfg0 0) 0x5D#8, .data (resultReg cfg0 1) 0x23#8,
        .data (resultReg cfg0 2) 0#8, .fail]
      let s : State := { chip 2 1 0 as with utBuf := 27898#16 }
      let z : State := { s with cal := cal1.set 3 0#16 }
      s.inputs = [] ∧ s.astate = awaitingPressure ∧ s.answers = as
      ∧ comp s.cal s.utBuf (rawPressure 0x5D#8 0x23#8 0#8 s.oss) s.oss = some (150#32, 69964#32)
      ∧ z.inputs = [] ∧ z.astate = awaitingPressure ∧ z.answers = as
      ∧ comp z.cal z.utBuf (rawPressure 0x5D#8 0x23#8 0#8 z.oss) z.oss = none) := by decide
theorem test_hyp_StageInvalidRecovers :
    ((chip 2 2 1 [.ack]).inputs = [] ∧ (chip 2 2 1 [.ack]).astate = 2#2 ∧ (chip 2 2 1 [.ack]).answers = .ack :: [])
    ∧ ((chip 2 3 1 [.fail]).inputs = [] ∧ (chip 2 3 1 [.fail]).astate = 3#2
      ∧ (chip 2 3 1 [.fail]).answers = .fail :: []) := by decide
theorem test_hyp_AsyncStepFrame :
    (NoReset (interleaved 2 0 []) ∧ Admitted (interleaved 2 0 []) ∧ (interleaved 2 0 []).astate ≠ awaitingPressure)
    ∧ NoReset (interleaved 2 1 []) ∧ Admitted (interleaved 2 1 [])
    ∧ (interleaved 2 1 []).astate ≠ awaitingTemperature := by
  unfold NoReset Admitted; decide
theorem test_hyp_TwoStepsMakeOneCycle :
    let as : List Answer := [.data (resultReg cfg0 0) 0x6C#8, .data (resultReg cfg0 1) 0xFA#8, .ack,
      .data (resultReg cfg0 0) 0x5D#8, .data (resultReg cfg0 1) 0x23#8, .data (resultReg cfg0 2) 0#8, .ack]
    let s : State := { chip 2 0 0 as with eocPend := true }
    s.cfg.wf = true ∧ s.inputs = [] ∧ s.seq = .idle ∧ s.mode = modeAsync ∧ s.astate = awaitingTemperature
    ∧ s.eocPend = true ∧ s.answers = as
    ∧ comp s.cal (half 0x6C#8 0xFA#8) (rawPressure 0x5D#8 0x23#8 0#8 s.oss) s.oss = some (150#32, 69964#32) := by decide
theorem test_hyp_SyncAndAsyncAgree :
    let as : List Answer := [.ack, .data (resultReg cfg0 0) 0x6C#8, .data (resultReg cfg0 1) 0xFA#8, .ack,
      .data (resultReg cfg0 0) 0x5D#8, .data (resultReg cfg0 1) 0x23#8, .data (resultReg cfg0 2) 0#8]
    let s := chip 1 0 1 as
    let a := chip 2 0 1 (as.drop 1 ++ [.ack])
    s.inputs = [] ∧ a.inputs = [] ∧ s.calValid = true ∧ s.cal = a.cal ∧ s.oss = a.oss ∧ s.mode = modeSync
    ∧ a.astate = awaitingTemperature ∧ s.answers = as ∧ a.answers = as.drop 1 ++ .ack :: [] := by decide
theorem test_hyp_FirstFailureEndsBusActivity :
    let s := (chip 1 0 1 [.ack, .fail]).withFetchWord 32 4
    step s = .next (after (step s)) := by rfl
theorem test_hyp_CalibrationReadOnlyOnceLoaded :
    let s := (chip 1 0 1 []).withFetchWord 32 1
    (NoReset s ∧ s.calValid = true) ∧ step s = .next (after (step s)) :=
  ⟨by unfold NoReset; decide, rfl⟩
theorem test_hyp_ModeWrittenOnce :
    let s := (chip 1 0 1 []).withFetchWord 32 3
    let a := (chip 2 0 1 []).withFetchWord 32 2
    (NoReset s ∧ s.mode = modeSync ∧ NoReset a ∧ a.mode = modeAsync)
    ∧ step s = .next (after (step s)) ∧ step a = .next (after (step a)) :=
  ⟨by unfold NoReset; decide, rfl, rfl⟩
theorem test_hyp_ErrBitsAreSticky :
    let s : State := ({ chip 1 0 1 [] with err := 0x3F#8 } : State).withFetchWord 32 3
    (NoReset s ∧ NoErrWrite s) ∧ step s = .next (after (step s)) :=
  ⟨by unfold NoReset NoErrWrite; decide, rfl⟩
theorem test_hyp_PulsesOnlyFromPressureStage :
    exec .readUt (chip 1 0 1 [.ack, .fail]) = .next (after (exec .readUt (chip 1 0 1 [.ack, .fail])))
    ∧ step ((chip 1 0 1 [.ack, .fail]).withFetchWord 32 4)
        = .next (after (step ((chip 1 0 1 [.ack, .fail]).withFetchWord 32 4)))
    ∧ ((chip 1 0 1 [.ack, .fail]).withFetchWord 32 4).mode ≠ modeAsync
    ∧ asyncStep (chip 2 0 1 [.fail]) = .next (after (asyncStep (chip 2 0 1 [.fail])))
    ∧ ∀ i : Fin 3, (chip 2 0 1 []).cbEn.getLsbD i.val = false ∧ (chip 2 0 1 []).astate ≠ awaitingPressure :=
  ⟨rfl, rfl, by decide, rfl, by decide⟩
theorem test_hyp_WaitTakesItsCycles : NoReset (interleaved 1 0 []) ∧ Admitted (interleaved 1 0 []) := by
  unfold NoReset Admitted; decide

end Sys2Proof.Tests
end

section
/-! SUPPORT, and the obligations settled with it: the registers as the host sees them. The fields of the STATUS word (R36),
what a read and a write do at an offset (R39, R47, R55, R141), and the reset values (R43). -/
namespace Sys2Proof.Machine

/-! ### The STATUS word (R36) -/

theorem statusWord_bits (s : State) :
    (statusWord s).getLsbD 0 = busy s ∧ (statusWord s).getLsbD 1 = s.calValid
    ∧ (statusWord s).getLsbD 6 = s.eocPend ∧ (statusWord s).getLsbD 7 = s.resValid := by
  refine ⟨?_, ?_, ?_, ?_⟩ <;>
    simp only [statusWord, BitVec.getLsbD_append, BitVec.getLsbD_ofBool, Nat.reduceLT, Nat.reduceSub, if_true,
      if_false, decide_true, Bool.true_and]

theorem statusWord_fields (s : State) :
    (statusWord s).extractLsb' 2 2 = s.mode ∧ (statusWord s).extractLsb' 4 2 = s.astate
    ∧ (statusWord s).extractLsb' 8 4 = s.lastResult ∧ (statusWord s).extractLsb' 12 2 = s.oss
    ∧ (statusWord s).extractLsb' 14 3 = s.cbEn ∧ (statusWord s).extractLsb' 17 15 = 0#15 := by
  refine ⟨?_, ?_, ?_, ?_, ?_, ?_⟩ <;>
    simp only [statusWord, BitVec.extractLsb'_append_eq_of_le, BitVec.extractLsb'_append_eq_right,
      BitVec.extractLsb'_eq_self, Nat.reduceLeDiff, Nat.reduceSub]

/-! ### Reads of the register window (R39, R47) -/

@[simp] theorem readReg_status (s : State) : readReg 0x04#8 s = statusWord s := rfl
@[simp] theorem readReg_utReg (s : State) : readReg 0x0C#8 s = s.utReg.setWidth 32 := rfl
@[simp] theorem readReg_upReg (s : State) : readReg 0x10#8 s = s.upReg := rfl
@[simp] theorem readReg_tReg (s : State) : readReg 0x14#8 s = s.tReg := rfl
@[simp] theorem readReg_pReg (s : State) : readReg 0x18#8 s = s.pReg := rfl

/-- Above P_REG a read goes to the coefficient file. -/
theorem readReg_of_gt_pReg {off : BitVec 8} (s : State) (h : 0x18 < off.toNat) :
    readReg off s = readCal s.cal off.toNat := by
  unfold readReg
  split
  any_goals omega
  rfl

theorem readCal_coefficient (cal : Vector Half 11) (k : Fin 11) :
    readCal cal (0x20 + 4 * k.val) = cal[k].setWidth 32 := by
  simp [readCal]

theorem calOffset_toNat (k : Fin 11) : (BitVec.ofNat 8 (0x20 + 4 * k.val)).toNat = 0x20 + 4 * k.val := by
  rw [BitVec.toNat_ofNat]
  omega

theorem readReg_calOffset (s : State) (k : Fin 11) :
    readReg (BitVec.ofNat 8 (0x20 + 4 * k.val)) s = s.cal[k].setWidth 32 := by
  have hoff := calOffset_toNat k
  rw [readReg_of_gt_pReg s (by omega), hoff, readCal_coefficient]

/-! ### Writes of the register window (R55, R141, R145) -/

theorem writeReg_utReg (w : Word) (s : State) :
    writeReg 0x0C#8 w s = if busy s then rejectBusy s else { s with utReg := w.setWidth 16 } := rfl

theorem writeReg_upReg (w : Word) (s : State) :
    writeReg 0x10#8 w s = if busy s then rejectBusy s else { s with upReg := w } := rfl

/-- CMD, ERR, UT_REG and UP_REG are the only offsets at which a write can have an effect. -/
theorem writeReg_of_readOnly {off : BitVec 8} (w : Word) (s : State)
    (h : off.toNat ≠ 0x00 ∧ off.toNat ≠ 0x08 ∧ off.toNat ≠ 0x0C ∧ off.toNat ≠ 0x10) : writeReg off w s = s := by
  obtain ⟨hcmd, herr, hut, hup⟩ := h
  unfold writeReg
  split
  any_goals contradiction
  rfl

theorem writeReg_calOffset (w : Word) (s : State) (k : Fin 11) :
    writeReg (BitVec.ofNat 8 (0x20 + 4 * k.val)) w s = s := by
  have hoff := calOffset_toNat k
  exact writeReg_of_readOnly w s (by omega)

/-! ### The obligations -/

/-- Settles O17, field by field of the packed word. -/
theorem statusPacksState : Obligations.StatusPacksState := by
  refine ⟨fun s => ?_, by decide⟩
  obtain ⟨hbusy, hcalValid, heocPend, hresValid⟩ := statusWord_bits s
  obtain ⟨hmode, hastate, hlastResult, hoss, hcbEn, hzero⟩ := statusWord_fields s
  exact ⟨readReg_status s, hbusy, hcalValid, hmode, hastate, heocPend, hresValid, hlastResult, hoss, hcbEn, hzero,
    fun w => writeReg_of_readOnly w s (by decide)⟩

/-- Settles O19: reads and read-only offsets from the window's rules, then the two writable registers by BUSY. -/
theorem dataRegistersSeenByHost : Obligations.DataRegistersSeenByHost := by
  intro s w
  refine ⟨readReg_utReg s, readReg_upReg s, readReg_tReg s, readReg_pReg s,
    fun k => ⟨readReg_calOffset s k, writeReg_calOffset w s k⟩,
    writeReg_of_readOnly w s (by decide), writeReg_of_readOnly w s (by decide), fun hidle => ?_, fun hbusy => ?_⟩
  · simp [writeReg_utReg, writeReg_upReg, hidle, BitVec.setWidth_eq_extractLsb']
  · simp [writeReg_utReg, writeReg_upReg, hbusy, rejectBusy, setErr, busyMask]

/-- Settles O10: each register is read off `State.reset`. -/
theorem resetValuesOfTable : Obligations.ResetValuesOfTable := by
  refine ⟨fun k => ?_, rfl, rfl, rfl, rfl, rfl, rfl, rfl, rfl, rfl, rfl, rfl, rfl, rfl, rfl, rfl, rfl, rfl⟩
  exact Vector.getElem_replicate k.isLt

end Sys2Proof.Machine
end

section
/-! SUPPORT, and the obligations settled with it: reserved and read-only offsets of the register window (R47, R55), and the
host accesses that R46 refuses, in a cycle between operations and in the first cycle of a running one. -/
namespace Sys2Proof.Machine

/-! ### Reserved offsets (R47, R55) -/

/-- Between P_REG and the coefficients, and above the coefficients, there is no register. -/
theorem readCal_reserved (cal : Vector Half 11) {off : Nat} (h : off < 0x20 ∨ 0x4C ≤ off) : readCal cal off = 0#32 := by
  unfold readCal
  split
  · rfl
  · have hnone : cal[(off - 0x20) / 4]? = none := Vector.getElem?_eq_none (by omega)
    rw [hnone]

theorem readReg_reserved {off : BitVec 8} (s : State) (h : off.toNat = 0x1C ∨ 0x4C ≤ off.toNat) :
    readReg off s = 0#32 := by
  rw [readReg_of_gt_pReg s (by omega), readCal_reserved s.cal (by omega)]

/-- Settles O18: a reserved or read-only offset is none of the four at which a write has an effect. -/
theorem reservedAndReadOnlyOffsets : Obligations.ReservedAndReadOnlyOffsets := by
  intro off w s _
  exact ⟨fun hres => ⟨readReg_reserved s hres, writeReg_of_readOnly w s (by omega)⟩,
    fun hro => writeReg_of_readOnly w s (by omega)⟩

/-! ### Which accesses are admitted (R46) -/

theorem admitted_read_iff (off : BitVec 8) (bytes : Nat) :
    (HostAccess.read off bytes).admitted = true ↔ bytes = 4 ∧ off.toNat % 4 = 0 := by
  simp [HostAccess.admitted]

theorem admitted_write_iff (off : BitVec 8) (bytes : Nat) (w : Word) :
    (HostAccess.write off bytes w).admitted = true ↔ bytes = 4 ∧ off.toNat % 4 = 0 := by
  simp [HostAccess.admitted]

/-! ### A refused access in a cycle between operations -/

theorem runCycle_refused {c : Cycle} (s : State) (hrst : c.rst = false) (hadm : c.host.admitted = false) :
    runCycle c s = .refused .hostAccess := by
  simp [runCycle, hrst, hadm]

theorem step_eq_runCycle {s : State} {c : Cycle} {cs : List Cycle} (hwf : s.cfg.wf = true) (hin : s.inputs = c :: cs) :
    step s = runCycle c { s with inputs := cs } := by
  simp [step, cycleStep, takeCycle, hwf, hin]

/-! ### A refused access in the first cycle of a running operation -/

/-- The next event does not happen at once, and the cycle before it has no reset and an access that R46 refuses. -/
def RefusedFirst : List Cycle → Prop
  | [] => False
  | c :: _ => c.atOnce = 0 ∧ c.rst = false ∧ c.host.admitted = false

theorem RefusedFirst.not_admitted {s : State} (h : RefusedFirst s.inputs) : ¬Admitted s := by
  intro hall
  cases hin : s.inputs with
  | nil => simp [RefusedFirst, hin] at h
  | cons c cs =>
    rw [hin] at h
    obtain ⟨-, -, hadm⟩ := h
    simp [hall c (by simp [hin])] at hadm

@[simp] theorem Flow.recover_ref (s : State) (f : State → Flow Unit) : (Flow.ref s : Flow Unit).recover f = .ref s := rfl
@[simp] theorem endLoad_ref (s : State) : endLoad (.ref s) = .ref s := rfl

/-- An operation that met a refused access is refused. -/
theorem outcome_ref {s : State} (h : RefusedFirst s.inputs) (close : Flow Unit → State) (t : State) :
    outcome close s (.ref t) = .refused .hostAccess :=
  if_neg (mt (allAdmitted_iff s).1 h.not_admitted)

theorem gap_refused {s : State} (h : RefusedFirst s.inputs) : gap s = .ref s := by
  unfold gap
  cases hin : s.inputs with
  | nil => simp [RefusedFirst, hin] at h
  | cons c cs =>
    rw [hin] at h
    obtain ⟨hat, hrst, hadm⟩ := h
    simp [gapFrom, hat, hrst, hadm, ← hin]

theorem readByte_refused {s : State} (h : RefusedFirst s.inputs) (r : Nat) : readByte r s = .ref s := by
  simp [readByte, gap_refused h]

theorem emit_refused {s : State} (h : RefusedFirst s.inputs) (e : Event) : emit e s = .ref s := by
  simp [emit, gap_refused h]

theorem startConversion_refused {s : State} (h : RefusedFirst s.inputs) (b : Byte) :
    startConversion b s = .ref { s with seq := .issue b } := by
  have hgap : gap { s with seq := .issue b } = .ref { s with seq := .issue b } := gap_refused h
  simp [startConversion, hgap]

/-- A load that has something to read is refused before its first read. -/
theorem load_refused {s : State} (h : RefusedFirst s.inputs) (hv : s.calValid = false) : load s = .ref (begin s) := by
  have hread (r : Nat) : readByte r (begin s) = .ref (begin s) := readByte_refused (s := begin s) h r
  simp [load, hv, coefOrder, loadCoefs, loadCoef, hread]

/-! ### The operations -/

theorem execLoadCal_refused {s : State} (h : RefusedFirst s.inputs) (hv : s.calValid = false) :
    execLoadCal s = .refused .hostAccess := by
  simp [execLoadCal, load_refused h hv, outcome_ref h]

theorem execInitSync_refused {s : State} (h : RefusedFirst s.inputs) (hv : s.calValid = false)
    (hm : s.mode ≠ modeAsync) : execInitSync s = .refused .hostAccess := by
  simp [execInitSync, initSync, hm, load_refused h hv, outcome_ref h]

/-- Before the load where there is one, else before the start command. -/
theorem execInitAsync_refused {s : State} (h : RefusedFirst s.inputs) (hm : s.mode ≠ modeSync) :
    execInitAsync s = .refused .hostAccess := by
  cases hv : s.calValid with
  | false => simp [execInitAsync, initAsync, hm, load_refused h hv, outcome_ref h]
  | true =>
    have hload : load s = .val () s := by simp [load, hv]
    have hstart := startConversion_refused (s := enterAsync s) h s.cfg.cmdTemp
    simp [execInitAsync, initAsync, hm, hload, hstart, outcome_ref h]

theorem syncGuard_sync {s : State} (hm : s.mode = modeSync) : syncGuard s = .val () s := by
  simp [syncGuard, hm, modeSync, modeAsync, modeUninit]

theorem execReadUt_refused {s : State} (h : RefusedFirst s.inputs) (hm : s.mode = modeSync) :
    execReadUt s = .refused .hostAccess := by
  simp [execReadUt, readUt, syncGuard_sync hm, startConversion_refused h, outcome_ref h]

theorem execReadUp_refused {s : State} (h : RefusedFirst s.inputs) (hm : s.mode = modeSync) :
    execReadUp s = .refused .hostAccess := by
  simp [execReadUp, readUp, syncGuard_sync hm, startConversion_refused h, outcome_ref h]

theorem execCompensate_refused {s : State} (h : RefusedFirst s.inputs) (hv : s.calValid = true) :
    execCompensate s = .refused .hostAccess := by
  have hgap : gap (begin s) = .ref (begin s) := gap_refused h
  simp [execCompensate, compensate, hv, hgap, outcome_ref h]

/-- Each stage starts with an event: a result read, or the Diag of an illegal ASTATE. -/
theorem stepStage_refused {s : State} (h : RefusedFirst s.inputs) : stepStage s = .ref s := by
  unfold stepStage
  split_ifs
  · simp [stageTemperature, readByte_refused h]
  · simp [stagePressure, readByte_refused h]
  · simp [stageInvalid, diag, emit_refused h]

theorem asyncStep_refused {s : State} (h : RefusedFirst s.inputs) : asyncStep s = .refused .hostAccess := by
  have hstart : RefusedFirst (startStep s).inputs := h
  rw [asyncStep, stepStage_refused hstart, outcome_ref hstart]

/-- Settles O16: the iff of R46, the cycle between operations, and each operation's first cycle. -/
theorem subwordAccessRefused : Obligations.SubwordAccessRefused := by
  refine ⟨fun off bytes w => ⟨admitted_read_iff off bytes, admitted_write_iff off bytes w⟩,
    fun s c cs hwf hin hrst hadm => ?_, fun s c cs hin hat hrst hadm => ?_⟩
  · rw [step_eq_runCycle hwf hin, runCycle_refused _ hrst hadm]
  · have h : RefusedFirst s.inputs := hin ▸ ⟨hat, hrst, hadm⟩
    exact ⟨fun hv => ⟨execLoadCal_refused h hv, execInitSync_refused h hv⟩, execInitAsync_refused h,
      fun hm => ⟨execReadUt_refused h hm, execReadUp_refused h hm⟩, execCompensate_refused h, asyncStep_refused h⟩

end Sys2Proof.Machine
end

section
/-! SUPPORT, and the obligations settled with it: the sensor start commands (R69, R70) as one write transaction to
`CTRL_REG`, the fields of the pressure start byte (R70), and the encoded examples of R74. -/
namespace Sys2Proof.Machine

/-! ### The start commands (R69, R70) -/

theorem exec_cmdTemp (s : State) : exec .cmdTemp s = .next (writeStart s.cfg.cmdTemp s).2 := rfl

theorem exec_cmdPres (o : BitVec 2) (s : State) : exec (.cmdPres o) s = .next (writeStart (presByte s.cfg o) s).2 := rfl

/-- The temperature start command under any answer of the bus. -/
theorem exec_cmdTemp_next (s : State) : ∃ ok as, exec .cmdTemp s = .next { s with
    history := s.history ++ [startEvent s.cfg s.cfg.cmdTemp ok], answers := as, draws := s.draws + 1 } := by
  obtain ⟨ok, as, hwrite⟩ := writeStart_cases s.cfg.cmdTemp s
  exact ⟨ok, as, by rw [exec_cmdTemp, hwrite]⟩

/-- The pressure start command under any answer of the bus. -/
theorem exec_cmdPres_next (o : BitVec 2) (s : State) : ∃ ok as, exec (.cmdPres o) s = .next { s with
    history := s.history ++ [startEvent s.cfg (presByte s.cfg o) ok], answers := as, draws := s.draws + 1 } := by
  obtain ⟨ok, as, hwrite⟩ := writeStart_cases (presByte s.cfg o) s
  exact ⟨ok, as, by rw [exec_cmdPres, hwrite]⟩

/-! ### The fields of the pressure start byte (R70) -/

/-- A base that is not refused has nothing in bits 7:6, so these bits are the level's alone. -/
theorem presByte_level {cfg : Config} (hwf : cfg.wf = true) (o : BitVec 2) : (presByte cfg o).extractLsb' 6 2 = o := by
  have hbase : cfg.cmdPresBase.extractLsb' 6 2 = 0#2 := by simpa [Config.wf] using hwf
  have hlevel : ∀ o : BitVec 2, (o.setWidth 8 <<< 6).extractLsb' 6 2 = o := by decide
  rw [presByte, BitVec.extractLsb'_or, hbase, hlevel, BitVec.zero_or]

/-- The shifted level has nothing in bits 5:0, so these bits are the base's alone, under any configuration. -/
theorem presByte_base (cfg : Config) (o : BitVec 2) :
    (presByte cfg o).extractLsb' 0 6 = cfg.cmdPresBase.extractLsb' 0 6 := by
  have hlevel : ∀ o : BitVec 2, (o.setWidth 8 <<< 6).extractLsb' 0 6 = 0#6 := by decide
  rw [presByte, BitVec.extractLsb'_or, hlevel, BitVec.or_zero]

theorem step_of_not_wf {s : State} (hwf : s.cfg.wf = false) : step s = .refused .configuration := by
  simp [step, cycleStep, hwf]

/-! ### The obligations -/

/-- Settles O5: the byte's two fields, its one write under any answer, the default bytes, and the refused base. -/
theorem pressureStartByte : Obligations.PressureStartByte := by
  refine ⟨fun _ _ => rfl, fun cfg o hwf => ⟨presByte_level hwf o, presByte_base cfg o⟩,
    fun s o => exec_cmdPres_next o s, rfl, rfl, rfl, rfl, rfl, fun s hbase => step_of_not_wf ?_⟩
  simpa [Config.wf] using hbase

/-- Settles O4: each example of the list is evaluated by the encoder, for any configuration, and by the decoder. -/
theorem exampleWordsDecode : Obligations.ExampleWordsDecode := by
  refine ⟨fun cfg p hp => ?_, rfl, rfl, rfl, rfl⟩
  fin_cases hp <;> exact ⟨rfl, rfl⟩

/-- Settles O27: a start command is its one write, under any answer of the bus and under a fixed ok. -/
theorem startCommandsWriteOneByte : Obligations.StartCommandsWriteOneByte := by
  refine ⟨rfl, fun s => ⟨exec_cmdTemp_next s, fun o => exec_cmdPres_next o s, fun rest hack => ⟨?_, fun o => ?_⟩⟩⟩
  · rw [exec_cmdTemp, writeStart_ack hack]
  · rw [exec_cmdPres, writeStart_ack hack]

end Sys2Proof.Machine
end

section
/-! SUPPORT, and the obligations settled with it: the loading commands in a quiet environment, once the coefficients are
loaded (R79) and where a read of the load fails (R80, R146). -/
namespace Sys2Proof.Machine

/-! ### The three loading commands, past the check of MODE (R76, R84, R125) -/

theorem exec_loadCal_eq_load (s : State) : exec .loadCal s = outcome conclude s (load s) := rfl

theorem exec_initSync_of_not_async {s : State} (hm : s.mode ≠ modeAsync) :
    exec .initSync s = outcome conclude s ((load s).bind fun _ t => .val () { t with mode := modeSync }) :=
  congrArg (outcome conclude s) (if_neg hm)

theorem exec_initAsync_of_not_sync {s : State} (hm : s.mode ≠ modeSync) :
    exec .initAsync s =
      outcome conclude s ((load s).bind fun _ t => startConversion t.cfg.cmdTemp (enterAsync t)) :=
  congrArg (outcome conclude s) (if_neg hm)

/-- An error of the load is the error of each command that calls it (R146). -/
theorem exec_loaders_of_load_err {s t : State} {e : Err} (hload : load s = .err e t) :
    exec .loadCal s = .next (raise e t)
    ∧ (s.mode ≠ modeAsync → exec .initSync s = .next (raise e t))
    ∧ (s.mode ≠ modeSync → exec .initAsync s = .next (raise e t)) := by
  refine ⟨?_, fun hm => ?_, fun hm => ?_⟩
  · rw [exec_loadCal_eq_load, hload, outcome_err, conclude_err]
  · rw [exec_initSync_of_not_async hm, hload, Flow.bind_err, outcome_err, conclude_err]
  · rw [exec_initAsync_of_not_sync hm, hload, Flow.bind_err, outcome_err, conclude_err]

/-! ### A load by CAL_VALID (R79) -/

theorem load_loaded {s : State} (hv : s.calValid = true) : load s = .val () s := if_pos hv

theorem load_unloaded {s : State} (hv : s.calValid = false) :
    load s = endLoad (loadCoefs coefOrder (begin s)) := by
  rw [load, hv, if_neg Bool.false_ne_true]

/-- Settles O28: the load hands the state on as it is, so only the rest of each command acts. -/
theorem loadIsIdempotent : Obligations.LoadIsIdempotent := by
  intro s hv
  have hload := load_loaded hv
  refine ⟨?_, fun hm => ?_, fun hm hin rest => ⟨fun hack => ?_, fun hfail => ?_⟩⟩
  · rw [exec_loadCal_eq_load, hload, outcome_val]
    rfl
  · rw [exec_initSync_of_not_async hm, hload, Flow.bind_val, outcome_val]
    rfl
  · have hstart := startConversion_quiet_ack (s := enterAsync s) (b := s.cfg.cmdTemp) hin hack
    rw [exec_initAsync_of_not_sync hm, hload, Flow.bind_val, hstart, outcome_val]
    rfl
  · have hstart := startConversion_quiet_fail (s := enterAsync s) (b := s.cfg.cmdTemp) hin hfail
    rw [exec_initAsync_of_not_sync hm, hload, Flow.bind_val, hstart, outcome_err]
    rfl

/-! ### The transactions of a load -/

/-- The state `s` in a load after the transactions with the events `es`, with `rest` the answers left and `shadow`
in the shadow registers. -/
def afterLoadEvents (es : List Event) (rest : List Answer) (shadow : Vector Half 11) (s : State) : State :=
  { s with calShadow := shadow, history := s.history ++ es, answers := rest, draws := s.draws + es.length }

theorem afterLoadEvents_cfg (es : List Event) (rest : List Answer) (shadow : Vector Half 11) (s : State) :
    (afterLoadEvents es rest shadow s).cfg = s.cfg := rfl

/-- The end of the load discards what its reads have put into the shadow registers (R80). -/
theorem dropShadow_afterLoadEvents (es : List Event) (rest : List Answer) (shadow : Vector Half 11) (s : State) :
    dropShadow (afterLoadEvents es rest shadow s)
      = afterLoadEvents es rest (Config.freeShadow (s.draws + es.length)) s := rfl

theorem afterLoadEvents_afterLoadEvents (es fs : List Event) (mid rest : List Answer) (sh1 sh2 : Vector Half 11)
    (s : State) :
    afterLoadEvents fs rest sh2 (afterLoadEvents es mid sh1 s) = afterLoadEvents (es ++ fs) rest sh2 s := by
  simp [afterLoadEvents, Nat.add_assoc]

theorem readByte_eq_afterLoadEvents {s : State} {r : Nat} {b : Byte} {rest : List Answer} (hin : s.inputs = [])
    (h : s.answers = .data r b :: rest) :
    readByte r s = .val b (afterLoadEvents [rdEvent s.cfg r b] rest s.calShadow s) := readByte_quiet_data hin h

theorem readByte_fail_eq_afterLoadEvents {s : State} {r : Nat} {rest : List Answer} (hin : s.inputs = [])
    (h : s.answers = .fail :: rest) :
    readByte r s = .err .comm (afterLoadEvents [rdFailEvent s.cfg r] rest s.calShadow s) := readByte_quiet_fail hin h

/-! ### The load of one coefficient with fixed answers (R52, R77) -/

theorem loadCoef_quiet_data {s : State} {k : Fin 11} {hi lo : Byte} {rest : List Answer} (hin : s.inputs = [])
    (h : s.answers = .data (calMsbReg s.cfg k) hi :: .data (calLsbReg s.cfg k) lo :: rest) :
    loadCoef k s = .val ()
      (afterLoadEvents [rdEvent s.cfg (calMsbReg s.cfg k) hi, rdEvent s.cfg (calLsbReg s.cfg k) lo] rest
        (s.calShadow.set k (half hi lo)) s) := by
  have hlsb : readByte (calLsbReg s.cfg k) (afterLoadEvents [rdEvent s.cfg (calMsbReg s.cfg k) hi]
      (.data (calLsbReg s.cfg k) lo :: rest) s.calShadow s) = _ := readByte_eq_afterLoadEvents hin rfl
  rw [loadCoef, readByte_eq_afterLoadEvents hin h, Flow.bind_val, afterLoadEvents_cfg, hlsb,
    afterLoadEvents_afterLoadEvents]
  rfl

theorem loadCoef_quiet_msb_fail {s : State} {k : Fin 11} {rest : List Answer} (hin : s.inputs = [])
    (h : s.answers = .fail :: rest) :
    loadCoef k s = .err .comm (afterLoadEvents [rdFailEvent s.cfg (calMsbReg s.cfg k)] rest s.calShadow s) := by
  rw [loadCoef, readByte_fail_eq_afterLoadEvents hin h, Flow.bind_err]

theorem loadCoef_quiet_lsb_fail {s : State} {k : Fin 11} {hi : Byte} {rest : List Answer} (hin : s.inputs = [])
    (h : s.answers = .data (calMsbReg s.cfg k) hi :: .fail :: rest) :
    loadCoef k s = .err .comm
      (afterLoadEvents [rdEvent s.cfg (calMsbReg s.cfg k) hi, rdFailEvent s.cfg (calLsbReg s.cfg k)] rest
        s.calShadow s) := by
  have hlsb : readByte (calLsbReg s.cfg k) (afterLoadEvents [rdEvent s.cfg (calMsbReg s.cfg k) hi]
      (.fail :: rest) s.calShadow s) = _ := readByte_fail_eq_afterLoadEvents hin rfl
  rw [loadCoef, readByte_eq_afterLoadEvents hin h, Flow.bind_val, afterLoadEvents_cfg, hlsb,
    afterLoadEvents_afterLoadEvents]
  rfl

/-! ### The reads of some coefficients -/

/-- The reads of the coefficients `ks` in order; `calReads` are those of all eleven. -/
def coefReads (cfg : Config) (hi lo : Fin 11 → Byte) (ks : List (Fin 11)) : List (Nat × Byte) :=
  ks.flatMap fun (k : Fin 11) => [(calMsbReg cfg k.val, hi k), (calLsbReg cfg k.val, lo k)]

theorem coefReads_coefOrder (cfg : Config) (hi lo : Fin 11 → Byte) :
    coefReads cfg hi lo coefOrder = calReads cfg hi lo := rfl

theorem coefReads_cons (cfg : Config) (hi lo : Fin 11 → Byte) (k : Fin 11) (ks : List (Fin 11)) :
    coefReads cfg hi lo (k :: ks) = (calMsbReg cfg k, hi k) :: (calLsbReg cfg k, lo k) :: coefReads cfg hi lo ks := rfl

/-! ### A load whose read number n fails (R80, R146) -/

/-- The events of a load whose reads `l` complete and whose read of register `r` then fails. -/
def failedLoadEvents (cfg : Config) (l : List (Nat × Byte)) (r : Nat) : List Event :=
  readEvents cfg l ++ [rdFailEvent cfg r]

theorem length_failedLoadEvents (cfg : Config) (l : List (Nat × Byte)) (r : Nat) :
    (failedLoadEvents cfg l r).length = l.length + 1 := by
  simp [failedLoadEvents, readEvents]

/-- The failed read is the MSB or the LSB of the first coefficient, or one of the load of the other coefficients. -/
theorem loadCoefs_quiet_fail (hi lo : Fin 11 → Byte) (x : Nat × Byte) (rest : List Answer) (ks : List (Fin 11)) :
    ∀ (n : Nat) (s : State), s.inputs = [] → (coefReads s.cfg hi lo ks)[n]? = some x →
      s.answers = readAnswers ((coefReads s.cfg hi lo ks).take n) ++ .fail :: rest →
      ∃ shadow, loadCoefs ks s = .err .comm
        (afterLoadEvents (failedLoadEvents s.cfg ((coefReads s.cfg hi lo ks).take n) x.1) rest shadow s) := by
  induction ks with
  | nil => simp [coefReads]
  | cons k ks ih =>
    intro n s hin hx hans
    rw [coefReads_cons] at hx hans ⊢
    match n with
    | 0 =>
      obtain rfl : (calMsbReg s.cfg k, hi k) = x := Option.some.inj hx
      exact ⟨s.calShadow, by rw [loadCoefs, loadCoef_quiet_msb_fail hin hans]; rfl⟩
    | 1 =>
      obtain rfl : (calLsbReg s.cfg k, lo k) = x := Option.some.inj hx
      exact ⟨s.calShadow, by rw [loadCoefs, loadCoef_quiet_lsb_fail hin hans]; rfl⟩
    | n + 2 =>
      have hcoef := loadCoef_quiet_data
        (rest := readAnswers ((coefReads s.cfg hi lo ks).take n) ++ .fail :: rest) hin hans
      obtain ⟨shadow, hothers⟩ := ih n (afterLoadEvents
        [rdEvent s.cfg (calMsbReg s.cfg k) (hi k), rdEvent s.cfg (calLsbReg s.cfg k) (lo k)]
        (readAnswers ((coefReads s.cfg hi lo ks).take n) ++ .fail :: rest)
        (s.calShadow.set k (half (hi k) (lo k))) s) hin hx rfl
      refine ⟨shadow, ?_⟩
      rw [loadCoefs, hcoef, Flow.bind_val, hothers, afterLoadEvents_afterLoadEvents]
      rfl

/-- A failed load ends with COMM; the discarded shadow and its transactions are all it leaves behind. -/
theorem load_quiet_fail {s : State} {hi lo : Fin 11 → Byte} {n : Nat} {x : Nat × Byte} {rest : List Answer}
    (hin : s.inputs = []) (hv : s.calValid = false) (hx : (calReads s.cfg hi lo)[n]? = some x)
    (hans : s.answers = readAnswers ((calReads s.cfg hi lo).take n) ++ .fail :: rest) :
    ∃ shadow, load s = .err .comm
      (afterLoadEvents (failedLoadEvents s.cfg ((calReads s.cfg hi lo).take n) x.1) rest shadow (begin s)) := by
  rw [← coefReads_coefOrder] at hx hans ⊢
  obtain ⟨_, hcoefs⟩ := loadCoefs_quiet_fail hi lo x rest coefOrder n (begin s) hin hx hans
  have hload := load_unloaded hv
  rw [hcoefs, endLoad_err, dropShadow_afterLoadEvents] at hload
  exact ⟨_, hload⟩

/-- Settles O32: the load ends with COMM after the n completed reads, and each command hands the error on. -/
theorem failedLoadLeavesCal : Obligations.FailedLoadLeavesCal := by
  intro s hi lo n x rest hin hv hx hans
  obtain ⟨shadow, hload⟩ := load_quiet_fail hin hv hx hans
  have hlen : ((calReads s.cfg hi lo).take n).length = n :=
    List.length_take_of_le (List.getElem?_eq_some_iff.1 hx).1.le
  have hexec := exec_loaders_of_load_err hload
  rw [afterLoadEvents, length_failedLoadEvents, hlen, failedLoadEvents, ← List.append_assoc] at hexec
  exact ⟨shadow, hexec⟩

end Sys2Proof.Machine
end

section
/-! SUPPORT, and the obligations settled with it: the guard of the synchronous accessors outside sync mode (R85, R147), and
the raw pressure as a quotient of the 24-bit code (R90, R91). -/
namespace Sys2Proof.Machine

/-! ### The guard outside sync mode (R85) -/

theorem syncGuard_async {s : State} (hm : s.mode = modeAsync) : syncGuard s = .err .mode s := if_pos hm

theorem syncGuard_uninit {s : State} (hm : s.mode = modeUninit) : syncGuard s = .err .notInit s := by
  simp [syncGuard, hm, modeUninit, modeAsync]

/-- Both accessors stop where their guard does. -/
theorem exec_syncRead_of_guard_err {s : State} {i : Instr} {e : Err} (hi : i = .readUt ∨ i = .readUp)
    (hguard : syncGuard s = .err e s) : exec i s = .next (raise e s) := by
  rcases hi with rfl | rfl
  · rw [exec, execReadUt, readUt, hguard, Flow.bind_err, outcome_err, conclude_err]
  · rw [exec, execReadUp, readUp, hguard, Flow.bind_err, outcome_err, conclude_err]

/-- Settles O34: the guard raises MODE in async mode and NOTINIT in UNINIT, on the state as it is. -/
theorem syncGuardFailsExplicitly : Obligations.SyncGuardFailsExplicitly := fun _ _ hi =>
  ⟨fun hm => exec_syncRead_of_guard_err hi (syncGuard_async hm),
    fun hm => exec_syncRead_of_guard_err hi (syncGuard_uninit hm)⟩

/-! ### The raw pressure (R90, R91) -/

theorem lsr32_toNat (a : Word) (n : Nat) : (lsr32 a n).toNat = a.toNat / 2 ^ n := by
  rw [lsr32_eq, BitVec.toNat_ushiftRight, Nat.shiftRight_eq_div_pow]

/-- The two shifts of R12 agree on a pattern that is not negative. -/
theorem lsr32_eq_asr32_of_msb_false {a : Word} (h : a.msb = false) (n : Nat) : lsr32 a n = asr32 a n := by
  rw [lsr32_eq, asr32_eq, BitVec.sshiftRight_eq_of_msb_false h]

theorem toNat_append_byte {n : Nat} (x : BitVec n) (b : Byte) : (x ++ b).toNat = x.toNat * 256 + b.toNat := by
  rw [BitVec.toNat_append, ← Nat.shiftLeft_add_eq_or_of_lt b.isLt, Nat.shiftLeft_eq]

theorem raw24_toNat (msb lsb xlsb : Byte) :
    (raw24 msb lsb xlsb).toNat = msb.toNat * 65536 + lsb.toNat * 256 + xlsb.toNat := by
  rw [raw24, toNat_append_byte, toNat_append_byte]
  omega

theorem rawPressure_toNat (msb lsb xlsb : Byte) (o : BitVec 2) :
    (rawPressure msb lsb xlsb o).toNat = (raw24 msb lsb xlsb).toNat / 2 ^ (8 - o.toNat) := by
  rw [rawPressure, lsr32_toNat, BitVec.toNat_setWidth_of_le (by decide)]

/-- The 24 bits of the code, less the 8 − o shifted out. -/
theorem rawPressure_lt (msb lsb xlsb : Byte) (o : BitVec 2) :
    (rawPressure msb lsb xlsb o).toNat < 2 ^ (16 + o.toNat) := by
  have hcode : 2 ^ (16 + o.toNat) * 2 ^ (8 - o.toNat) = 2 ^ 24 := by
    rw [← pow_add]
    congr 1
    omega
  rw [rawPressure_toNat, Nat.div_lt_iff_lt_mul (by positivity), hcode]
  exact (raw24 msb lsb xlsb).isLt

theorem raw24_setWidth_msb (msb lsb xlsb : Byte) : ((raw24 msb lsb xlsb).setWidth 32).msb = false := by
  rw [BitVec.msb_setWidth, BitVec.getLsbD_of_ge _ _ (by decide), Bool.and_false]

/-- Settles O46: the quotient and its bound, and the widened code is not negative. -/
theorem rawPressureRange : Obligations.RawPressureRange := fun msb lsb xlsb o =>
  ⟨raw24_toNat msb lsb xlsb ▸ rawPressure_toNat msb lsb xlsb o, rawPressure_lt msb lsb xlsb o,
    lsr32_eq_asr32_of_msb_false (raw24_setWidth_msb msb lsb xlsb) _⟩

end Sys2Proof.Machine
end

section
/-! SUPPORT, and the obligation settled with it: the synchronous commands and the two stages of an async cycle in a quiet
environment with every transaction completed (R86, R89, R96, R128, R129), each as one equation, and that both ways of
measuring leave the same results (R95). -/
namespace Sys2Proof.Machine

/-! ### The events of an operation in a quiet environment -/

/-- The state `s` in an operation after the events `es`, with `rest` the answers left. -/
def afterEvents (es : List Event) (rest : List Answer) (s : State) : State :=
  { s with history := s.history ++ es, answers := rest, draws := s.draws + es.countP Event.isBus }

@[simp] theorem afterEvents_cfg (es : List Event) (rest : List Answer) (s : State) :
    (afterEvents es rest s).cfg = s.cfg := rfl

@[simp] theorem afterEvents_cal (es : List Event) (rest : List Answer) (s : State) :
    (afterEvents es rest s).cal = s.cal := rfl

@[simp] theorem afterEvents_utBuf (es : List Event) (rest : List Answer) (s : State) :
    (afterEvents es rest s).utBuf = s.utBuf := rfl

theorem afterEvents_afterEvents (es fs : List Event) (mid rest : List Answer) (s : State) :
    afterEvents fs rest (afterEvents es mid s) = afterEvents (es ++ fs) rest s := by
  simp [afterEvents, Nat.add_assoc]

theorem readByte_eq_afterEvents {s : State} {r : Nat} {b : Byte} {rest : List Answer} (hin : s.inputs = [])
    (h : s.answers = .data r b :: rest) : readByte r s = .val b (afterEvents [rdEvent s.cfg r b] rest s) :=
  readByte_quiet_data hin h

theorem readByte_afterEvents {s : State} (hin : s.inputs = []) (es : List Event) (r : Nat) (b : Byte)
    (rest : List Answer) :
    readByte r (afterEvents es (.data r b :: rest) s) = .val b (afterEvents (es ++ [rdEvent s.cfg r b]) rest s) := by
  rw [readByte_eq_afterEvents (s := afterEvents es (.data r b :: rest) s) hin rfl, afterEvents_afterEvents,
    afterEvents_cfg]

/-- A start command leaves the sequencer running, whatever it was before. -/
theorem startConversion_eq_afterEvents {s : State} {b : Byte} {rest : List Answer} (hin : s.inputs = [])
    (h : s.answers = .ack :: rest) :
    startConversion b s = .val () (afterEvents [startEvent s.cfg b true] rest (begin s)) :=
  startConversion_quiet_ack hin h

theorem startConversion_afterEvents {s : State} (hin : s.inputs = []) (es : List Event) (b : Byte)
    (rest : List Answer) :
    startConversion b (afterEvents es (.ack :: rest) s)
      = .val () (afterEvents (es ++ [startEvent s.cfg b true]) rest (begin s)) := by
  rw [startConversion_eq_afterEvents (s := afterEvents es (.ack :: rest) s) hin rfl, ← afterEvents_afterEvents]
  rfl

theorem waitFor_afterEvents {s : State} (hin : s.inputs = []) (es : List Event) (us : Nat) (rest : List Answer) :
    waitFor us (afterEvents es rest s) = .val () (afterEvents (es ++ [.wait us]) rest { s with waitCnt := 0 }) := by
  rw [waitFor_quiet (s := afterEvents es rest s) hin, ← afterEvents_afterEvents es _ rest]
  rfl

/-! ### The synchronous commands (R86, R89, R96) -/

/-- READ_UT with its three transactions completed (R86, R87). -/
theorem exec_readUt_quiet {s : State} {msb lsb : Byte} {rest : List Answer} (hin : s.inputs = [])
    (hm : s.mode = modeSync)
    (h : s.answers = .ack :: .data (resultReg s.cfg 0) msb :: .data (resultReg s.cfg 1) lsb :: rest) :
    exec .readUt s = .next (afterEvents [startEvent s.cfg s.cfg.cmdTemp true, .wait tempWaitUs,
        rdEvent s.cfg (resultReg s.cfg 0) msb, rdEvent s.cfg (resultReg s.cfg 1) lsb] rest
      { s with utReg := half msb lsb, lastResult := codeOk, seq := .idle, waitCnt := 0 }) := by
  simp only [exec, execReadUt, readUt, syncGuard_sync hm, startConversion_eq_afterEvents hin h, waitFor_afterEvents,
    readByte_afterEvents, begin_inputs, begin_cfg, afterEvents_cfg, hin, Flow.bind_val, outcome_val, conclude_val]
  rfl

/-- READ_UP with its four transactions completed (R89 to R92). -/
theorem exec_readUp_quiet {s : State} {msb lsb xlsb : Byte} {rest : List Answer} (hin : s.inputs = [])
    (hm : s.mode = modeSync)
    (h : s.answers = .ack :: .data (resultReg s.cfg 0) msb :: .data (resultReg s.cfg 1) lsb
      :: .data (resultReg s.cfg 2) xlsb :: rest) :
    exec .readUp s = .next (afterEvents [startEvent s.cfg (presByte s.cfg s.oss) true, .wait (presWaitUs s.oss),
        rdEvent s.cfg (resultReg s.cfg 0) msb, rdEvent s.cfg (resultReg s.cfg 1) lsb,
        rdEvent s.cfg (resultReg s.cfg 2) xlsb] rest
      { s with upReg := rawPressure msb lsb xlsb s.oss, lastResult := codeOk, seq := .idle, waitCnt := 0 }) := by
  simp only [exec, execReadUp, readUp, syncGuard_sync hm, startConversion_eq_afterEvents hin h, waitFor_afterEvents,
    readByte_afterEvents, begin_inputs, begin_cfg, afterEvents_cfg, hin, Flow.bind_val, outcome_val, conclude_val]
  rfl

theorem exec_compensate_quiet_result {s : State} {r : Word × Word} (hin : s.inputs = []) (hv : s.calValid = true)
    (hcomp : comp s.cal s.utReg s.upReg s.oss = some r) :
    exec .compensate s = .next (finishOk (storeResult r s)) := by
  rw [exec, execCompensate, compensate, if_neg (by simp [hv]), gap_quiet (by exact hin), Flow.bind_val]
  simp only [begin_cal, begin_utReg, begin_upReg, begin_oss, hcomp, outcome_val]
  rfl

theorem exec_compensate_quiet_div0 {s : State} (hin : s.inputs = []) (hv : s.calValid = true)
    (hcomp : comp s.cal s.utReg s.upReg s.oss = none) :
    exec .compensate s = .next (raise .div0 { s with resValid := false }) := by
  rw [exec, execCompensate, compensate, if_neg (by simp [hv]), gap_quiet (by exact hin), Flow.bind_val]
  simp only [begin_cal, begin_utReg, begin_upReg, begin_oss, hcomp, outcome_err]
  rfl

/-! ### The temperature stage (R128) -/

theorem stageTemperature_quiet {s : State} {msb lsb : Byte} {rest : List Answer} (hin : s.inputs = [])
    (h : s.answers = .data (resultReg s.cfg 0) msb :: .data (resultReg s.cfg 1) lsb :: .ack :: rest) :
    stageTemperature s = .val () (afterEvents [rdEvent s.cfg (resultReg s.cfg 0) msb,
        rdEvent s.cfg (resultReg s.cfg 1) lsb, startEvent s.cfg (presByte s.cfg s.oss) true] rest
      { s with utBuf := half msb lsb, astate := awaitingPressure, seq := .running }) := by
  have hstart := startConversion_afterEvents (s := { s with utBuf := half msb lsb }) hin
    [rdEvent s.cfg (resultReg s.cfg 0) msb, rdEvent s.cfg (resultReg s.cfg 1) lsb] (presByte s.cfg s.oss) rest
  rw [stageTemperature, readByte_eq_afterEvents hin h, Flow.bind_val, afterEvents_cfg, readByte_afterEvents hin,
    Flow.bind_val]
  exact congrArg (Flow.bind · _) hstart

/-- The first STEP of a cycle with its three transactions completed (R126, R128). -/
theorem asyncStep_temperature_quiet {s : State} {msb lsb : Byte} {rest : List Answer} (hin : s.inputs = [])
    (hast : s.astate = awaitingTemperature)
    (h : s.answers = .data (resultReg s.cfg 0) msb :: .data (resultReg s.cfg 1) lsb :: .ack :: rest) :
    asyncStep s = .next (afterEvents [rdEvent s.cfg (resultReg s.cfg 0) msb,
        rdEvent s.cfg (resultReg s.cfg 1) lsb, startEvent s.cfg (presByte s.cfg s.oss) true] rest
      { s with eocPend := false, utBuf := half msb lsb, astate := awaitingPressure, seq := .idle }) := by
  rw [asyncStep, stepStage_temperature (s := startStep s) hast, stageTemperature_quiet (s := startStep s) hin h,
    Flow.recover_val, outcome_val]
  rfl

/-! ### The pressure stage (R129, R132) -/

theorem emitIf_afterEvents {s : State} (hin : s.inputs = []) {e : Event} (he : e.isBus = false) (on : Bool)
    (es : List Event) (rest : List Answer) :
    emitIf on e (afterEvents es rest s) = .val () (afterEvents (es ++ if on then [e] else []) rest s) := by
  rw [emitIf_quiet (s := afterEvents es rest s) hin]
  cases on <;> simp [afterEvents, he]

/-- The pulses of the enabled channels are the only events of a delivered result. -/
theorem deliver_afterEvents {s : State} (hin : s.inputs = []) (es : List Event) (rest : List Answer) (ut : Half)
    (up : Word) (r : Word × Word) :
    deliver ut up r (afterEvents es rest s)
      = .val () (afterEvents (es ++ pulses s.cbEn ut up r) rest (storeResult r s)) := by
  have hstore : storeResult r (afterEvents es rest s) = afterEvents es rest (storeResult r s) := rfl
  have hin' : (storeResult r s).inputs = [] := hin
  rw [deliver, hstore, emitIf_afterEvents hin' rfl, Flow.bind_val, emitIf_afterEvents hin' rfl, Flow.bind_val,
    emitIf_afterEvents hin' rfl]
  simp only [pulses, List.append_assoc]
  rfl

theorem stageCompensate_afterEvents_result {s : State} {up : Word} {o : BitVec 2} {r : Word × Word}
    (hin : s.inputs = []) (hcomp : comp s.cal s.utBuf up o = some r) (es : List Event) (rest : List Answer) :
    stageCompensate up o (afterEvents es rest s) = .val () (afterEvents (es ++ pulses s.cbEn s.utBuf up r) rest
      (storeResult r { s with utReg := s.utBuf, upReg := up })) := by
  have hdeliver := deliver_afterEvents (s := { s with utReg := s.utBuf, upReg := up }) hin es rest s.utBuf up r
  rw [stageCompensate, gap_quiet (by exact hin), Flow.bind_val]
  simp only [afterEvents_cal, afterEvents_utBuf, hcomp]
  exact hdeliver

theorem stageCompensate_afterEvents_div0 {s : State} {up : Word} {o : BitVec 2} (hin : s.inputs = [])
    (hcomp : comp s.cal s.utBuf up o = none) (es : List Event) (rest : List Answer) :
    stageCompensate up o (afterEvents es rest s)
      = .val () (afterEvents es rest (stepDiv0 { s with utReg := s.utBuf, upReg := up })) := by
  rw [stageCompensate, gap_quiet (by exact hin), Flow.bind_val]
  simp only [afterEvents_cal, afterEvents_utBuf, hcomp]
  rfl

/-- The pressure stage around its compensation, which leaves the events `es` and the registers of `t`. -/
theorem stagePressure_quiet {s t : State} {msb lsb xlsb : Byte} {es : List Event} {rest : List Answer}
    (hin : s.inputs = []) (h : s.answers = .data (resultReg s.cfg 0) msb :: .data (resultReg s.cfg 1) lsb
      :: .data (resultReg s.cfg 2) xlsb :: .ack :: rest)
    (hcomp : stageCompensate (rawPressure msb lsb xlsb s.oss) s.oss (afterEvents [rdEvent s.cfg (resultReg s.cfg 0) msb,
      rdEvent s.cfg (resultReg s.cfg 1) lsb, rdEvent s.cfg (resultReg s.cfg 2) xlsb] (.ack :: rest) s)
        = .val () (afterEvents es (.ack :: rest) t)) (ht : t.inputs = []) :
    stagePressure s = .val () (afterEvents (es ++ [startEvent t.cfg t.cfg.cmdTemp true]) rest
      { t with astate := awaitingTemperature, seq := .running }) := by
  simp only [stagePressure, readByte_eq_afterEvents hin h, readByte_afterEvents hin, afterEvents_cfg, Flow.bind_val,
    List.cons_append, List.nil_append, hcomp, startConversion_afterEvents ht]
  rfl

/-- The second STEP of a cycle, with its four transactions completed and a result (R126, R129). -/
theorem asyncStep_pressure_quiet_result {s : State} {msb lsb xlsb : Byte} {up : Word} {r : Word × Word}
    {rest : List Answer} (hin : s.inputs = []) (hast : s.astate = awaitingPressure)
    (h : s.answers = .data (resultReg s.cfg 0) msb :: .data (resultReg s.cfg 1) lsb
      :: .data (resultReg s.cfg 2) xlsb :: .ack :: rest)
    (hup : rawPressure msb lsb xlsb s.oss = up) (hcomp : comp s.cal s.utBuf up s.oss = some r) :
    asyncStep s = .next (afterEvents ([rdEvent s.cfg (resultReg s.cfg 0) msb, rdEvent s.cfg (resultReg s.cfg 1) lsb,
        rdEvent s.cfg (resultReg s.cfg 2) xlsb] ++ pulses s.cbEn s.utBuf up r
        ++ [startEvent s.cfg s.cfg.cmdTemp true]) rest
      (storeResult r { s with
        eocPend := false, utReg := s.utBuf, upReg := up, astate := awaitingTemperature, seq := .idle })) := by
  subst hup
  rw [asyncStep, stepStage_pressure (s := startStep s) hast, stagePressure_quiet (s := startStep s) hin h
    (stageCompensate_afterEvents_result (s := startStep s) hin hcomp _ _) hin, Flow.recover_val, outcome_val]
  rfl

/-- The second STEP of a cycle, with its four transactions completed and a zero divisor (R126, R132). -/
theorem asyncStep_pressure_quiet_div0 {s : State} {msb lsb xlsb : Byte} {up : Word} {rest : List Answer}
    (hin : s.inputs = []) (hast : s.astate = awaitingPressure)
    (h : s.answers = .data (resultReg s.cfg 0) msb :: .data (resultReg s.cfg 1) lsb
      :: .data (resultReg s.cfg 2) xlsb :: .ack :: rest)
    (hup : rawPressure msb lsb xlsb s.oss = up) (hcomp : comp s.cal s.utBuf up s.oss = none) :
    asyncStep s = .next (afterEvents [rdEvent s.cfg (resultReg s.cfg 0) msb, rdEvent s.cfg (resultReg s.cfg 1) lsb,
        rdEvent s.cfg (resultReg s.cfg 2) xlsb, startEvent s.cfg s.cfg.cmdTemp true] rest
      (stepDiv0 { s with
        eocPend := false, utReg := s.utBuf, upReg := up, astate := awaitingTemperature, seq := .idle })) := by
  subst hup
  rw [asyncStep, stepStage_pressure (s := startStep s) hast, stagePressure_quiet (s := startStep s) hin h
    (stageCompensate_afterEvents_div0 (s := startStep s) hin hcomp _ _) hin, Flow.recover_val, outcome_val]
  rfl

/-- Settles O53: both ways leave the same two codes to one compensation, which has a result in both or in neither. -/
theorem syncAndAsyncAgree : Obligations.SyncAndAsyncAgree := by
  intro s a m l p0 p1 p2 rest rest' hs ha hv hcal hoss hm hast hsans haans
  have hut := exec_readUt_quiet hs hm hsans
  have htemp := asyncStep_temperature_quiet ha hast haans
  cases hcomp : comp s.cal (half m l) (rawPressure p0 p1 p2 s.oss) s.oss with
  | none =>
    have hcomp' : comp a.cal (half m l) (rawPressure p0 p1 p2 a.oss) a.oss = none := by rw [← hcal, ← hoss, hcomp]
    exact ⟨_, _, _, _, _, hut, exec_readUp_quiet hs hm rfl, exec_compensate_quiet_div0 hs hv hcomp,
      htemp, asyncStep_pressure_quiet_div0 ha rfl rfl rfl hcomp', rfl, fun h => absurd h Bool.false_ne_true⟩
  | some r =>
    have hcomp' : comp a.cal (half m l) (rawPressure p0 p1 p2 a.oss) a.oss = some r := by rw [← hcal, ← hoss, hcomp]
    exact ⟨_, _, _, _, _, hut, exec_readUp_quiet hs hm rfl, exec_compensate_quiet_result hs hv hcomp,
      htemp, asyncStep_pressure_quiet_result ha rfl rfl rfl hcomp', rfl, fun _ => ⟨rfl, rfl⟩⟩

end Sys2Proof.Machine
end

section
/-! SUPPORT, and the obligations settled with it: the compensation transform (R97 to R118), as the listing of R117 in Lean's
own bit-vector operators and, for C1, C2, C14 and C16, in the integers it reads; and COMPENSATE in its three outcomes (R96). -/
namespace Sys2Proof.Machine

/-! ### The datapath operators in their unsigned and signed readings (R12) -/

theorem add32_toNat (a b : Word) : (add32 a b).toNat = (a.toNat + b.toNat) % 2 ^ 32 := BitVec.toNat_ofNat _ _

theorem mul32_toNat (a b : Word) : (mul32 a b).toNat = a.toNat * b.toNat % 2 ^ 32 := BitVec.toNat_ofNat _ _

theorem shl32_toNat (a : Word) (n : Nat) : (shl32 a n).toNat = a.toNat * 2 ^ n % 2 ^ 32 := BitVec.toNat_ofNat _ _

theorem udiv32_toNat (a b : Word) : (udiv32 a b).toNat = a.toNat / b.toNat := by
  rw [udiv32_eq, BitVec.toNat_udiv]

theorem bmod_word_of_abs_lt {x : Int} (h : |x| < 2 ^ 31) : x.bmod (2 ^ 32) = x := by
  obtain ⟨hlo, hhi⟩ := abs_lt.1 h
  exact Int.bmod_eq_of_le (by omega) (by omega)

theorem sub32_toInt_of_abs_lt {a b : Word} {x y : Int} (ha : a.toInt = x) (hb : b.toInt = y) (h : |x - y| < 2 ^ 31) :
    (sub32 a b).toInt = x - y := by
  rw [sub32_eq, BitVec.toInt_sub, ha, hb, bmod_word_of_abs_lt h]

theorem mul32_toInt_of_abs_lt {a b : Word} {x y : Int} (ha : a.toInt = x) (hb : b.toInt = y) (h : |x * y| < 2 ^ 31) :
    (mul32 a b).toInt = x * y := by
  rw [mul32_eq, BitVec.toInt_mul, ha, hb, bmod_word_of_abs_lt h]

theorem shl32_toInt_of_abs_lt {a : Word} {x : Int} {n : Nat} (ha : a.toInt = x) (h : |x * 2 ^ n| < 2 ^ 31) :
    (shl32 a n).toInt = x * 2 ^ n := by
  rw [shl32_eq, BitVec.toInt_shiftLeft, Nat.shiftLeft_eq, Nat.cast_mul, ← Int.bmod_mul_bmod,
    ← BitVec.toInt_eq_toNat_bmod, ha, Nat.cast_pow, Nat.cast_ofNat, bmod_word_of_abs_lt h]

/-- Only the division of −2^31 by −1 overflows (R99). -/
theorem sdiv32_toInt_of_abs_lt {a : Word} (b : Word) (h : |a.toInt| < 2 ^ 31) :
    (sdiv32 a b).toInt = a.toInt.tdiv b.toInt := by
  have hmin : a ≠ BitVec.intMin 32 := by
    rintro rfl
    exact absurd h (by decide)
  rw [sdiv32_eq, BitVec.toInt_sdiv_of_ne_or_ne _ _ (.inl hmin)]

theorem half_toInt_bounds (x : Half) : -2 ^ 15 ≤ x.toInt ∧ x.toInt < 2 ^ 15 := ⟨BitVec.le_toInt x, BitVec.toInt_lt⟩

/-! ### Step C1 (R98) -/

/-- The difference and its product with AC5 stay within 32 bits: 65535 × 2^15 is below 2^31. -/
theorem compX1_product_toInt (cal : Vector Half 11) (ut : Half) :
    (mul32 (sub32 (ut.signExtend 32) (coef cal 5)) (coef cal 4)).toInt = (ut.toInt - cal[5].toInt) * cal[4].toInt := by
  obtain ⟨hut, hut'⟩ := half_toInt_bounds ut
  obtain ⟨hac6, hac6'⟩ := half_toInt_bounds cal[5]
  obtain ⟨hac5, hac5'⟩ := half_toInt_bounds cal[4]
  have hdiff : |ut.toInt - cal[5].toInt| ≤ 65535 := abs_le.2 ⟨by omega, by omega⟩
  have hprod : |(ut.toInt - cal[5].toInt) * cal[4].toInt| < 2 ^ 31 :=
    calc |(ut.toInt - cal[5].toInt) * cal[4].toInt|
        = |ut.toInt - cal[5].toInt| * |cal[4].toInt| := abs_mul _ _
      _ ≤ 65535 * 2 ^ 15 := mul_le_mul hdiff (abs_le.2 ⟨hac5, hac5'.le⟩) (abs_nonneg _) (by decide)
      _ < 2 ^ 31 := by decide
  have hsub := sub32_toInt_of_abs_lt (BitVec.toInt_signExtend_of_le (by decide)) (coef_toInt cal 5)
    (hdiff.trans_lt (by decide))
  exact mul32_toInt_of_abs_lt hsub (coef_toInt cal 4) hprod

/-- Settles O41: the product is exact, and the shift is the floor of its quotient. -/
theorem firstTemperatureTermExact : Obligations.FirstTemperatureTermExact := fun cal ut =>
  ⟨rfl, by rw [compX1, asr32_toInt, compX1_product_toInt], by decide⟩

/-! ### Step C2 (R99) -/

theorem mc_shifted_toInt (cal : Vector Half 11) : (shl32 (coef cal 9) 11).toInt = cal[9].toInt * 2048 := by
  obtain ⟨hlo, hhi⟩ := half_toInt_bounds cal[9]
  exact shl32_toInt_of_abs_lt (n := 11) (coef_toInt cal 9) (abs_lt.2 ⟨by omega, by omega⟩)

theorem comp_of_compDivisor_zero {cal : Vector Half 11} {ut : Half} (h : compDivisor cal ut = 0#32) (up : Word)
    (oss : BitVec 2) : comp cal ut up oss = none := if_pos h

theorem compX2_toInt (cal : Vector Half 11) (ut : Half) :
    (compX2 cal ut).toInt = (cal[9].toInt * 2048).tdiv (compDivisor cal ut).toInt := by
  obtain ⟨hlo, hhi⟩ := half_toInt_bounds cal[9]
  have hmc := mc_shifted_toInt cal
  rw [compX2, sdiv32_toInt_of_abs_lt, hmc]
  exact abs_lt.2 ⟨by omega, by omega⟩

/-- Settles O42: the dividend is MC × 2048, far from −2^31, so the quotient is exact. -/
theorem secondTemperatureTermExact : Obligations.SecondTemperatureTermExact := fun cal ut =>
  ⟨rfl, rfl, mc_shifted_toInt cal, comp_of_compDivisor_zero, fun _ => compX2_toInt cal ut⟩

/-! ### Step C14 (R111) -/

/-- The 32-bit product that C14 shifts. -/
theorem compB4_toNat (cal : Vector Half 11) (b6 : Word) :
    (compB4 cal b6).toNat = (mul32 (coef cal 3) (add32 (compX3b cal b6) 32768#32)).toNat / 2 ^ 15 := lsr32_toNat _ _

theorem compB4_eq_zero_iff (cal : Vector Half 11) (b6 : Word) :
    compB4 cal b6 = 0#32 ↔ (mul32 (coef cal 3) (add32 (compX3b cal b6) 32768#32)).toNat < 32768 := by
  rw [BitVec.toNat_eq, compB4_toNat]
  exact Nat.div_eq_zero_iff_lt (by decide)

theorem compB4_lt (cal : Vector Half 11) (b6 : Word) : (compB4 cal b6).toNat < 2 ^ 17 := by
  have hprod := (mul32 (coef cal 3) (add32 (compX3b cal b6) 32768#32)).isLt
  rw [compB4_toNat]
  omega

theorem compB4_of_ac4_zero {cal : Vector Half 11} (h : cal[3] = 0#16) (b6 : Word) : compB4 cal b6 = 0#32 := by
  have hcoef : coef cal 3 = 0#32 := congrArg (BitVec.signExtend 32) h
  rw [compB4_eq_zero_iff, hcoef, mul32_eq, BitVec.zero_mul]
  decide

theorem compB4_of_x3_min {cal : Vector Half 11} {b6 : Word} (h : (compX3b cal b6).toInt = -32768) :
    compB4 cal b6 = 0#32 := by
  have hx3 : compX3b cal b6 = BitVec.ofInt 32 (-32768) := BitVec.eq_of_toInt_eq (h.trans (by decide))
  have hsum : add32 (compX3b cal b6) 32768#32 = 0#32 := by rw [hx3]; decide
  rw [compB4_eq_zero_iff, hsum, mul32_eq, BitVec.mul_zero]
  decide

/-- Settles O43: everything follows from B4 as the 32-bit product divided by 2^15. -/
theorem pressureScaleRange : Obligations.PressureScaleRange := fun cal b6 =>
  ⟨by rw [compB4_toNat, mul32_toNat, add32_toNat]; rfl, compB4_lt cal b6, compB4_eq_zero_iff cal b6,
    fun h => compB4_of_ac4_zero h b6, compB4_of_x3_min⟩

/-! ### Step C16 (R113) -/

theorem comp_of_compB4_zero {cal : Vector Half 11} {ut : Half} (h : compB4 cal (compB6 (compB5 cal ut)) = 0#32)
    (up : Word) (oss : BitVec 2) : comp cal ut up oss = none := by
  unfold comp
  split
  · rfl
  · exact if_pos h

/-- The comparison of C16 is with 2^31. -/
theorem ult32_half_range_iff (b7 : Word) : ult32 b7 0x80000000#32 = true ↔ b7.toNat < 2 ^ 31 := decide_eq_true_iff

/-- A numerator below 2^31 keeps all its bits when it is doubled. -/
theorem compQuotient_toNat_of_lt {b7 : Word} (h : b7.toNat < 2 ^ 31) (b4 : Word) :
    (compQuotient b7 b4).toNat = 2 * b7.toNat / b4.toNat := by
  rw [compQuotient, if_pos ((ult32_half_range_iff b7).2 h), udiv32_toNat, shl32_toNat, Nat.mod_eq_of_lt (by omega),
    pow_one, Nat.mul_comm]

theorem compQuotient_of_ge {b7 : Word} (h : 2 ^ 31 ≤ b7.toNat) (b4 : Word) :
    compQuotient b7 b4 = shl32 (udiv32 b7 b4) 1 :=
  if_neg fun hlt => Nat.not_lt.2 h ((ult32_half_range_iff b7).1 hlt)

/-- Settles O44: DIV0 where B4 is zero, then the quotient in each branch of the comparison. -/
theorem pressureQuotientUnsigned : Obligations.PressureQuotientUnsigned := by
  refine ⟨fun cal ut up oss h => comp_of_compB4_zero h up oss, fun b7 b4 _ =>
    ⟨fun hlt => compQuotient_toNat_of_lt hlt b4, fun hge => ⟨?_, ?_⟩⟩⟩
  · rw [compQuotient_of_ge hge, shl32_toNat, udiv32_toNat, pow_one, Nat.mul_comm]
  · simp [compQuotient_of_ge hge, shl32_eq]

/-! ### The listing (R117) -/

/-- Settles O40: with each operator of R12 read as Lean's own, the steps C1 to C19 are the listing, up to how a coefficient
is indexed. -/
theorem compIsListing : Obligations.CompIsListing := by
  intro cal ut up oss
  simp only [comp, compCorrect, compQuotient, compB7, compB4, compX3b, compB3, compX3a, compS, compB6, compT, compB5,
    compX2, compDivisor, compX1, add32_eq, sub32_eq, mul32_eq, asr32_eq, lsr32_eq, shl32_eq, sdiv32_eq, udiv32_eq,
    ult32_eq, decide_eq_true_eq]
  rfl

/-! ### COMPENSATE (R96) -/

theorem exec_compensate_unloaded {s : State} (hv : s.calValid = false) :
    exec .compensate s = .next (raise .notInit s) := by
  rw [exec, execCompensate, compensate, if_pos hv, outcome_err, conclude_err]

/-- Without a reset and a refused access to come, the cycles before the next event only interleave. -/
theorem gap_interleaved {s : State} (hb : busy s = true) (hr : NoReset s) (ha : Admitted s) :
    ∃ u, gap s = .val () u ∧ Interleaved s u := by
  obtain ⟨_, u, hgap, hu⟩ | ⟨_, _, _, hno⟩ := (gap_ends' hb).goesOn hr ha (fun _ ⟨_, _, _, h⟩ => h) id
  · exact ⟨u, hgap, hu⟩
  · exact hno.elim

/-- No cycle inside the operation changes what the transform reads (R145). -/
theorem Interleaved.comp_eq {s u : State} (h : Interleaved s u) :
    comp u.cal u.utReg u.upReg u.oss = comp s.cal s.utReg s.upReg s.oss := by
  rw [h.same]; rfl

theorem Interleaved.history_eq {s u : State} (h : Interleaved s u) : u.history = s.history := by rw [h.same]; rfl

theorem Interleaved.results_eq {s u : State} (h : Interleaved s u) : u.tReg = s.tReg ∧ u.pReg = s.pReg := by
  rw [h.same]; exact ⟨rfl, rfl⟩

/-- The end of COMPENSATE in the state `u`, where the transform has the outcome `d`. -/
def compensateEnd (d : Option (Word × Word)) (u : State) : State :=
  match d with
  | none => raise .div0 { u with resValid := false }
  | some r => finishOk (storeResult r u)

/-- COMPENSATE with any cycles inside it but a reset or a refused access ends with the transform's outcome at its start. -/
theorem exec_compensate_interleaved {s : State} (hv : s.calValid = true) (hr : NoReset s) (ha : Admitted s) :
    ∃ u, Interleaved (begin s) u ∧ exec .compensate s = .next (compensateEnd (comp s.cal s.utReg s.upReg s.oss) u) := by
  obtain ⟨u, hgap, hu⟩ := gap_interleaved (s := begin s) rfl hr ha
  have hcomp : comp u.cal u.utReg u.upReg u.oss = comp s.cal s.utReg s.upReg s.oss := hu.comp_eq
  refine ⟨u, hu, ?_⟩
  rw [exec, execCompensate, compensate, if_neg (by simp [hv]), hgap, Flow.bind_val]
  simp only [hcomp]
  cases comp s.cal s.utReg s.upReg s.oss with
  | none => exact outcome_err conclude s _ _
  | some r => exact outcome_val conclude s _ _

theorem raise_div0_err_bit (s : State) : (raise .div0 s).err.getLsbD 3 = true := by
  simp [raise, errMask]

/-- Settles O39: NOTINIT, DIV0 or a result; a register that the outcome does not write is as it was before the cycles. -/
theorem compensateResult : Obligations.CompensateResult := by
  intro s
  refine ⟨exec_compensate_unloaded,
    fun hv hcomp => ⟨fun hr ha => ?_, fun hin => exec_compensate_quiet_div0 hin hv hcomp⟩,
    fun T p hv hcomp => ⟨fun hr ha => ?_, fun hin => exec_compensate_quiet_result hin hv hcomp⟩⟩
  all_goals
    obtain ⟨u, hu, hexec⟩ := exec_compensate_interleaved hv hr ha
    rw [hcomp] at hexec
  · obtain ⟨htReg, hpReg⟩ := hu.results_eq
    exact ⟨_, hexec, rfl, rfl, raise_div0_err_bit _, rfl, htReg, hpReg, hu.history_eq⟩
  · exact ⟨_, hexec, rfl, rfl, rfl, rfl, rfl, hu.history_eq⟩

end Sys2Proof.Machine
end

section
/-! SUPPORT, and the obligations settled with it: the stages of a STEP in a quiet environment with one outcome for each
transaction (R128, R129, R131, R132). -/
namespace Sys2Proof.Machine

/-! ### Failed transactions among the events of an operation -/

theorem readByte_fail_eq_afterEvents {s : State} {r : Nat} {rest : List Answer} (hin : s.inputs = [])
    (h : s.answers = .fail :: rest) : readByte r s = .err .comm (afterEvents [rdFailEvent s.cfg r] rest s) :=
  readByte_quiet_fail hin h

theorem readByte_fail_afterEvents {s : State} (hin : s.inputs = []) (es : List Event) (r : Nat) (rest : List Answer) :
    readByte r (afterEvents es (.fail :: rest) s) = .err .comm (afterEvents (es ++ [rdFailEvent s.cfg r]) rest s) := by
  rw [readByte_fail_eq_afterEvents (s := afterEvents es (.fail :: rest) s) hin rfl, afterEvents_afterEvents,
    afterEvents_cfg]

theorem startConversion_fail_afterEvents {s : State} (hin : s.inputs = []) (es : List Event) (b : Byte)
    (rest : List Answer) :
    startConversion b (afterEvents es (.fail :: rest) s)
      = .err .comm (afterEvents (es ++ [startEvent s.cfg b false]) rest (begin s)) := by
  rw [startConversion_quiet_fail (s := afterEvents es (.fail :: rest) s) hin rfl,
    ← afterEvents_afterEvents es _ rest]
  rfl

theorem stepCommFail_afterEvents {s : State} (hin : s.inputs = []) (es : List Event) (rest : List Answer) :
    stepCommFail (afterEvents es rest s)
      = .val () (afterEvents (es ++ [.diag .commError (s.astate.setWidth 8)]) rest
          { setErr (errMask .comm) s with astate := awaitingTemperature }) := by
  rw [stepCommFail_quiet (s := afterEvents es rest s) hin, ← afterEvents_afterEvents es _ rest]
  rfl

/-- The STEP of a stage that recovers by `stepCommFail`, where a transaction of it failed after the events `es` (R131). -/
theorem asyncStep_of_stage_err {s t : State} {x : Flow Unit} {es : List Event} {rest : List Answer} (ht : t.inputs = [])
    (hstage : stepStage (startStep s) = x.recover stepCommFail) (hx : x = .err .comm (afterEvents es rest t)) :
    asyncStep s = .next (afterEvents (es ++ [.diag .commError (t.astate.setWidth 8)]) rest
      { setErr (errMask .comm) t with astate := awaitingTemperature, seq := .idle }) := by
  rw [asyncStep, hstage, hx, Flow.recover_err, stepCommFail_afterEvents ht, outcome_val]
  rfl

/-! ### The temperature stage with a failed transaction (R128) -/

theorem stageTemperature_msb_fail {s : State} {rest : List Answer} (hin : s.inputs = [])
    (h : s.answers = .fail :: rest) :
    stageTemperature s = .err .comm (afterEvents [rdFailEvent s.cfg (resultReg s.cfg 0)] rest s) := by
  rw [stageTemperature, readByte_fail_eq_afterEvents hin h, Flow.bind_err]

theorem stageTemperature_lsb_fail {s : State} {msb : Byte} {rest : List Answer} (hin : s.inputs = [])
    (h : s.answers = .data (resultReg s.cfg 0) msb :: .fail :: rest) :
    stageTemperature s = .err .comm (afterEvents [rdEvent s.cfg (resultReg s.cfg 0) msb,
      rdFailEvent s.cfg (resultReg s.cfg 1)] rest s) := by
  rw [stageTemperature, readByte_eq_afterEvents hin h, Flow.bind_val, afterEvents_cfg, readByte_fail_afterEvents hin,
    Flow.bind_err]
  rfl

theorem stageTemperature_start_fail {s : State} {msb lsb : Byte} {rest : List Answer} (hin : s.inputs = [])
    (h : s.answers = .data (resultReg s.cfg 0) msb :: .data (resultReg s.cfg 1) lsb :: .fail :: rest) :
    stageTemperature s = .err .comm (afterEvents [rdEvent s.cfg (resultReg s.cfg 0) msb,
        rdEvent s.cfg (resultReg s.cfg 1) lsb, startEvent s.cfg (presByte s.cfg s.oss) false] rest
      { s with utBuf := half msb lsb, seq := .running }) := by
  have hstart := startConversion_fail_afterEvents (s := { s with utBuf := half msb lsb }) hin
    [rdEvent s.cfg (resultReg s.cfg 0) msb, rdEvent s.cfg (resultReg s.cfg 1) lsb] (presByte s.cfg s.oss) rest
  rw [stageTemperature, readByte_eq_afterEvents hin h, Flow.bind_val, afterEvents_cfg, readByte_afterEvents hin,
    Flow.bind_val]
  exact congrArg (Flow.bind · _) hstart

/-- A failed temperature stage leaves ASTATE at 00, where the STEP found it (R128, R131). -/
theorem asyncStep_of_stageTemperature_err {s t : State} {es : List Event} {rest : List Answer}
    (hast : s.astate = awaitingTemperature) (h : stageTemperature (startStep s) = .err .comm (afterEvents es rest t))
    (ht : t.inputs = []) (htast : t.astate = s.astate) :
    asyncStep s = .next (afterEvents (es ++ [.diag .commError 0#8]) rest
      { setErr (errMask .comm) t with astate := s.astate, seq := .idle }) := by
  rw [asyncStep_of_stage_err ht (stepStage_temperature (s := startStep s) hast) h, htast, hast]
  rfl

/-- Settles O47: an equation for the stage by the first transaction that fails, and what `stepCommFail` adds to it. -/
theorem stageTemperatureOutcomes : Obligations.StageTemperatureOutcomes := by
  intro s msb lsb rest hin hast
  refine ⟨asyncStep_temperature_quiet hin hast, fun h => ?_, fun h => ?_, fun h => ?_⟩
  · exact asyncStep_of_stageTemperature_err hast (stageTemperature_msb_fail (s := startStep s) hin h) hin rfl
  · exact asyncStep_of_stageTemperature_err hast (stageTemperature_lsb_fail (s := startStep s) hin h) hin rfl
  · exact asyncStep_of_stageTemperature_err hast (stageTemperature_start_fail (s := startStep s) hin h) hin rfl

/-! ### The pressure stage with all transactions completed (R129, R132) -/

/-- A pulse is no transaction, so it uses up no answer. -/
theorem pulses_countP_isBus (en : BitVec 3) (ut : Half) (up : Word) (r : Word × Word) :
    (pulses en ut up r).countP Event.isBus = 0 := by
  simp only [pulses, List.countP_append]
  split_ifs <;> rfl

/-- Settles O48: the pulses stand between the reads and the start command, and make no transaction. -/
theorem stagePressureOutcomes : Obligations.StagePressureOutcomes := by
  intro s msb lsb xlsb rest hin hast h
  refine ⟨fun r hcomp => ?_, fun hcomp => ?_⟩
  · rw [asyncStep_pressure_quiet_result hin hast h rfl hcomp]
    simp only [afterEvents, List.countP_append, pulses_countP_isBus, List.append_assoc]
    rfl
  · rw [asyncStep_pressure_quiet_div0 hin hast h rfl hcomp]
    simp only [afterEvents, List.append_assoc]
    rfl

end Sys2Proof.Machine
end

section
/-! SUPPORT, and the obligation settled with it: which channels an operation pulses, under any inputs and any answers
(R94, R136). Only a pressure stage pulses, and its pulses are among those of the enabled channels, in their order. -/
namespace Sys2Proof.Machine

/-! ### Channels -/

/-- The channel an event is a pulse of, by its bit in CB_EN (R28, R151). -/
def Event.channel : Event → Option (Fin 3)
  | .temp _ _ => some 0
  | .press _ _ => some 1
  | .alt _ => some 2
  | .busRd _ _ _ | .busWr _ _ _ _ | .wait _ | .diag _ _ | .corrupt _ => none

theorem Event.isTemp_eq_channel : Event.isTemp = fun e => e.channel == some 0 := by funext e; cases e <;> rfl
theorem Event.isPress_eq_channel : Event.isPress = fun e => e.channel == some 1 := by funext e; cases e <;> rfl
theorem Event.isAlt_eq_channel : Event.isAlt = fun e => e.channel == some 2 := by funext e; cases e <;> rfl
theorem Event.isPulse_eq_channel (e : Event) : e.isPulse = e.channel.isSome := by cases e <;> rfl

/-- The channels that are enabled, in the order in which a pressure stage pulses them (R129). -/
def enabledChannels (en : BitVec 3) : List (Fin 3) := [0, 1, 2].filter fun k => en.getLsbD k

theorem enabledChannels_nodup (en : BitVec 3) : (enabledChannels en).Nodup :=
  List.Nodup.filter _ (by decide)

theorem not_mem_enabledChannels {en : BitVec 3} {k : Fin 3} (h : en.getLsbD k = false) : k ∉ enabledChannels en := by
  intro hk
  exact absurd (List.of_mem_filter hk) (by rw [h]; exact Bool.false_ne_true)

/-- The pulses of a pressure stage, channel by channel. -/
theorem enabledChannels_eq (en : BitVec 3) :
    enabledChannels en = (if en.getLsbD 0 then [0] else [])
      ++ ((if en.getLsbD 1 then [1] else []) ++ if en.getLsbD 2 then [2] else []) := by
  simp only [enabledChannels, List.filter_cons, List.filter_nil, Fin.val_zero, Fin.val_one, Fin.val_two]
  split_ifs <;> rfl

/-! ### The pulses between two states -/

/-- From `s` to `t` events were added, and the pulses among them are of the channels `l` or some of them, in that order. -/
def AddsPulses (l : List (Fin 3)) (s t : State) : Prop :=
  ∃ es, t.history = s.history ++ es ∧ (es.filterMap Event.channel).Sublist l

theorem AddsPulses.of_history_eq {s t : State} (h : t.history = s.history) : AddsPulses [] s t :=
  ⟨[], by rw [h, List.append_nil], .slnil⟩

theorem AddsPulses.trans {l m : List (Fin 3)} {s t u : State} (h1 : AddsPulses l s t) (h2 : AddsPulses m t u) :
    AddsPulses (l ++ m) s u := by
  obtain ⟨es, hes, hl⟩ := h1
  obtain ⟨fs, hfs, hm⟩ := h2
  refine ⟨es ++ fs, by rw [hfs, hes, List.append_assoc], ?_⟩
  rw [List.filterMap_append]
  exact hl.append hm

theorem AddsPulses.of_same_history {l : List (Fin 3)} {s t u : State} (h : AddsPulses l s t)
    (hu : u.history = t.history) : AddsPulses l s u := by rwa [AddsPulses, hu]

theorem AddsPulses.mono {l m : List (Fin 3)} {s t : State} (h : AddsPulses l s t) (hlm : l.Sublist m) :
    AddsPulses m s t := by
  obtain ⟨es, hes, hl⟩ := h
  exact ⟨es, hes, hl.trans hlm⟩

theorem isPulse_false_of_channels_nil {es : List Event} (h : (es.filterMap Event.channel).Sublist []) :
    ∀ e ∈ es, e.isPulse = false := by
  intro e he
  rw [Event.isPulse_eq_channel, List.filterMap_eq_nil_iff.1 (List.sublist_nil.1 h) e he]
  rfl

theorem AddsPulses.none {s t : State} (h : AddsPulses [] s t) :
    ∃ es, t.history = s.history ++ es ∧ ∀ e ∈ es, e.isPulse = false := by
  obtain ⟨es, hes, hl⟩ := h
  exact ⟨es, hes, isPulse_false_of_channels_nil hl⟩

/-- A channel that is listed once pulses at most once. -/
theorem length_filter_channel_le_one {es : List Event} {l : List (Fin 3)} (h : (es.filterMap Event.channel).Sublist l)
    (hl : l.Nodup) (k : Fin 3) : (es.filter fun e => e.channel == some k).length ≤ 1 := by
  rw [← List.countP_eq_length_filter, ← List.count_filterMap]
  exact List.nodup_iff_count_le_one.1 (hl.sublist h) k

/-- A channel that is not listed does not pulse. -/
theorem channel_ne_of_not_mem {es : List Event} {l : List (Fin 3)} (h : (es.filterMap Event.channel).Sublist l)
    {k : Fin 3} (hk : k ∉ l) : ∀ e ∈ es, (e.channel == some k) = false := by
  intro e he
  refine beq_eq_false_iff_ne.2 fun hek => hk (h.subset ?_)
  exact List.mem_filterMap.2 ⟨e, he, hek⟩

/-! ### The pulses of a stretch of an operation -/

/-- `t` is a later state of the operation that `s` is in, with the pulses `l` at most; CB_EN is as it was, as no
command is accepted while BUSY = 1 (R145). -/
structure Onward (l : List (Fin 3)) (s t : State) : Prop where
  pulses : AddsPulses l s t
  cbEn : t.cbEn = s.cbEn
  busy : busy s = true → busy t = true
  refusal : RefusalToCome t → RefusalToCome s

theorem Onward.of_events {s t : State} (es : List Event) (hh : t.history = s.history ++ es) (hc : t.cbEn = s.cbEn)
    (hb : Machine.busy s = true → Machine.busy t = true) (hi : t.inputs = s.inputs) :
    Onward (es.filterMap Event.channel) s t :=
  ⟨⟨es, hh, .refl _⟩, hc, hb, by rw [RefusalToCome, hi]; exact id⟩

theorem Onward.of_assignment {s t : State} (hh : t.history = s.history) (hc : t.cbEn = s.cbEn)
    (hb : Machine.busy s = true → Machine.busy t = true) (hi : t.inputs = s.inputs) : Onward [] s t :=
  Onward.of_events [] (by rw [hh, List.append_nil]) hc hb hi

theorem Onward.refl (s : State) : Onward [] s s := .of_assignment rfl rfl id rfl

theorem Onward.trans {l m : List (Fin 3)} {s t u : State} (h1 : Onward l s t) (h2 : Onward m t u) :
    Onward (l ++ m) s u :=
  ⟨h1.pulses.trans h2.pulses, h2.cbEn.trans h1.cbEn, h2.busy ∘ h1.busy, h1.refusal ∘ h2.refusal⟩

theorem Onward.mono {l m : List (Fin 3)} {s t : State} (h : Onward l s t) (hlm : l.Sublist m) : Onward m s t :=
  { h with pulses := h.pulses.mono hlm }

theorem Interleaved.onward {s t : State} (h : Interleaved s t) : Onward [] s t :=
  ⟨.of_history_eq h.history_eq, by rw [h.same]; rfl, h.busy, h.refusalToCome⟩

/-- Cycles, and after them one event and the assignments made with it. -/
theorem Interleaved.onward_event {s u t : State} (h : Interleaved s u) (e : Event) (hh : t.history = s.history ++ [e])
    (hc : t.cbEn = u.cbEn) (hb : Machine.busy u = true → Machine.busy t = true) (hi : t.inputs = u.inputs) :
    Onward ([e].filterMap Event.channel) s t :=
  h.onward.trans (Onward.of_events [e] (by rw [hh, h.history_eq]) hc hb hi)

theorem Abandoned.addsPulses {s t : State} (h : Abandoned s t) : AddsPulses [] s t := by
  obtain ⟨u, ht, hu, -⟩ := h
  rw [ht]
  exact .of_history_eq hu.history_eq

/-- Every way the flow ends has added the pulses `l` at most since `s`. -/
def Flow.Emits {α : Type} (l : List (Fin 3)) (s : State) (x : Flow α) : Prop :=
  x.Ends (fun _ t => Onward l s t) (fun _ t => Onward l s t) (AddsPulses l s) (RefusalToCome s)

theorem Flow.Emits.mono {α : Type} {l m : List (Fin 3)} {s : State} {x : Flow α} (h : x.Emits l s)
    (hlm : l.Sublist m) : x.Emits m s :=
  Flow.Ends.mono h (fun _ _ ht => ht.mono hlm) (fun _ _ ht => ht.mono hlm) (fun _ ht => ht.mono hlm) id

theorem Onward.emits_append {α : Type} {l m : List (Fin 3)} {s t : State} {x : Flow α} (h : Onward l s t)
    (hx : x.Emits m t) : x.Emits (l ++ m) s :=
  Flow.Ends.mono hx (fun _ _ hu => h.trans hu) (fun _ _ hu => h.trans hu) (fun _ hu => h.pulses.trans hu) h.refusal

theorem Onward.emits {α : Type} {l : List (Fin 3)} {s t : State} {x : Flow α} (h : Onward [] s t) (hx : x.Emits l t) :
    x.Emits l s := h.emits_append hx

theorem Flow.Emits.bind_append {α β : Type} {l m : List (Fin 3)} {s : State} {x : Flow α} {f : α → State → Flow β}
    (hx : x.Emits l s) (hf : ∀ a t, Onward l s t → (f a t).Emits m t) : (x.bind f).Emits (l ++ m) s :=
  (Flow.Ends.mono hx (fun _ _ ht => ht) (fun _ _ ht => ht.mono (List.sublist_append_left l m))
    (fun _ ht => ht.mono (List.sublist_append_left l m)) id).bind fun a t ht => ht.emits_append (hf a t ht)

/-- A sequence whose first part pulses nothing. -/
theorem Flow.Emits.bind {α β : Type} {l : List (Fin 3)} {s : State} {x : Flow α} {f : α → State → Flow β}
    (hx : x.Emits [] s) (hf : ∀ a t, Onward [] s t → (f a t).Emits l t) : (x.bind f).Emits l s := hx.bind_append hf

/-- A recovery that pulses nothing leaves the pulses as they were. -/
theorem Flow.Emits.recover {l : List (Fin 3)} {s : State} {x : Flow Unit} {f : State → Flow Unit} (hx : x.Emits l s)
    (hf : ∀ t, Onward l s t → (f t).Emits [] t) : (x.recover f).Emits l s :=
  Flow.Ends.recover hx fun _ t ht => List.append_nil l ▸ ht.emits_append (hf t ht)

/-! ### The shared operations -/

theorem gap_emits {s : State} (hb : busy s = true) : (gap s).Emits [] s :=
  (gap_ends' hb).mono (fun _ _ h => h.onward) (fun _ _ h => h.elim) (fun _ h => h.addsPulses) id

theorem readByte_emits {r : Nat} {s : State} (hb : busy s = true) : (readByte r s).Emits [] s := by
  refine (readByte_ends hb).mono (fun b t h => ?_) (fun e t h => ?_) (fun _ h => h.addsPulses) id
  · obtain ⟨-, u, hu, rfl⟩ := h
    exact hu.onward_event (rdEvent s.cfg r b) rfl rfl id rfl
  · obtain ⟨-, -, u, hu, rfl⟩ := h
    exact hu.onward_event (rdFailEvent s.cfg r) rfl rfl id rfl

theorem issue_onward (b : Byte) (s : State) : Onward [] s { s with seq := .issue b } :=
  .of_assignment rfl rfl (fun _ => rfl) rfl

/-- A start command, from the state with its byte at the bus port, in which BUSY = 1. -/
theorem startConversion_issued_emits (b : Byte) (s : State) :
    (startConversion b s).Emits [] { s with seq := .issue b } := by
  refine startConversion_ends.mono (fun _ t h => ?_) (fun e t h => ?_) (fun _ h => h.addsPulses) id
  · obtain ⟨-, u, hu, rfl⟩ := h
    exact hu.onward_event (startEvent s.cfg b true) rfl rfl (fun _ => rfl) rfl
  · obtain ⟨-, -, u, hu, rfl⟩ := h
    exact hu.onward_event (startEvent s.cfg b false) rfl rfl (fun _ => rfl) rfl

theorem startConversion_emits (b : Byte) (s : State) : (startConversion b s).Emits [] s :=
  (issue_onward b s).emits (startConversion_issued_emits b s)

theorem waitFor_emits {us : Nat} {s : State} (hb : busy s = true) : (waitFor us s).Emits [] s := by
  have hwait (u : State) (k : Nat) : Onward [] u { pushEvent (.wait us) u with waitCnt := k } :=
    .of_events [.wait us] rfl rfl id rfl
  refine (waitFor_ends hb).mono (fun _ t h => ?_) (fun _ _ h => h.elim) (fun t h => ?_) id
  · obtain ⟨u, hu, ht⟩ := h
    exact hu.onward.trans ((hwait u 0).trans ht.onward)
  · obtain h | ⟨u, k, hu, ht⟩ := h
    · exact h.addsPulses
    · exact (hu.onward.trans (hwait u k)).pulses.trans ht.addsPulses

theorem emit_emits {e : Event} {s : State} (hb : busy s = true) : (emit e s).Emits ([e].filterMap Event.channel) s := by
  refine (emit_ends hb).mono (fun _ t h => ?_) (fun _ _ h => h.elim)
    (fun _ h => h.addsPulses.mono (List.nil_sublist _)) id
  obtain ⟨u, hu, rfl⟩ := h
  exact hu.onward_event e rfl rfl id rfl

theorem diag_emits {k : DiagKind} {v : Byte} {s : State} (hb : busy s = true) : (diag k v s).Emits [] s :=
  emit_emits hb

/-- One channel of a pressure stage pulses if its bit is 1. -/
theorem emitIf_emits {on : Bool} {k : Fin 3} {e : Event} {s : State} (hb : busy s = true) (he : e.channel = some k) :
    (emitIf on e s).Emits (if on then [k] else []) s := by
  cases on with
  | false => exact Onward.refl s
  | true => simpa [emitIf, he] using emit_emits (e := e) hb

/-! ### The load and the commands -/

theorem Reading.onward {s t : State} (h : Reading s t) : Onward [] s t := by
  refine ⟨?_, by rw [h.same]; rfl, h.busy, h.refusalToCome⟩
  obtain ⟨es, hes, hrd⟩ := h.events
  refine ⟨es, hes, List.sublist_nil.2 (List.filterMap_eq_nil_iff.2 fun e he => ?_)⟩
  obtain ⟨r, b, rfl⟩ := hrd e he
  rfl

theorem ReadingFailed.onward {s t : State} (h : ReadingFailed s t) : Onward [] s t := by
  obtain ⟨u, r, hu, ht⟩ := h.reading
  rw [ht]
  exact hu.onward.trans (.of_events [rdFailEvent u.cfg r] rfl rfl id rfl)

theorem begin_onward (s : State) : Onward [] s (begin s) := .of_assignment rfl rfl (fun _ => rfl) rfl

theorem load_emits (s : State) : (load s).Emits [] s := by
  refine (load_ends s).mono (fun _ t h => ?_) (fun e t h => ?_) (fun t h => ?_) id
  · obtain ⟨-, rfl⟩ | ⟨-, u, hu, rfl⟩ := h
    · exact .refl _
    · exact ((begin_onward s).trans hu.onward).trans (.of_assignment rfl rfl id rfl)
  · obtain ⟨-, -, u, hu, rfl⟩ := h
    exact ((begin_onward s).trans hu.onward).trans (.of_assignment rfl rfl id rfl)
  · obtain ⟨-, u, ht, hu, -⟩ := h
    rw [ht]
    exact ((begin_onward s).trans hu.onward).pulses

theorem initSync_emits (s : State) : (initSync s).Emits [] s := by
  unfold initSync
  split_ifs
  · exact .refl s
  · exact (load_emits s).bind fun _ _ _ => .of_assignment rfl rfl id rfl

theorem initAsync_emits (s : State) : (initAsync s).Emits [] s := by
  unfold initAsync
  split_ifs
  · exact .refl s
  · have henter (t : State) : Onward [] t (enterAsync t) := .of_assignment rfl rfl id rfl
    exact (load_emits s).bind fun _ t _ => (henter t).emits (startConversion_emits _ _)

theorem syncGuard_emits (s : State) : (syncGuard s).Emits [] s := by
  obtain ⟨-, h⟩ | ⟨-, h⟩ | ⟨-, -, h⟩ := syncGuard_cases s <;> rw [h] <;> exact Onward.refl s

theorem compensate_emits (s : State) : (compensate s).Emits [] s := by
  unfold compensate
  split_ifs
  · exact .refl s
  · refine (begin_onward s).emits ((gap_emits rfl).bind fun _ t _ => ?_)
    split
    · exact .of_assignment rfl rfl id rfl
    · exact .of_assignment rfl rfl id rfl

theorem readUt_emits (s : State) : (readUt s).Emits [] s := by
  refine (syncGuard_emits s).bind fun _ s0 _ => (issue_onward s0.cfg.cmdTemp s0).emits ?_
  refine (startConversion_issued_emits _ s0).bind fun _ s1 h1 => ?_
  have hb1 := h1.busy rfl
  refine (waitFor_emits hb1).bind fun _ s2 h2 => ?_
  have hb2 := h2.busy hb1
  refine (readByte_emits hb2).bind fun _ s3 h3 => ?_
  refine (readByte_emits (h3.busy hb2)).bind fun _ s4 _ => ?_
  exact .of_assignment rfl rfl id rfl

theorem readUp_emits (s : State) : (readUp s).Emits [] s := by
  refine (syncGuard_emits s).bind fun _ s0 _ => (issue_onward (presByte s0.cfg s0.oss) s0).emits ?_
  refine (startConversion_issued_emits _ s0).bind fun _ s1 h1 => ?_
  have hb1 := h1.busy rfl
  refine (waitFor_emits hb1).bind fun _ s2 h2 => ?_
  have hb2 := h2.busy hb1
  refine (readByte_emits hb2).bind fun _ s3 h3 => ?_
  have hb3 := h3.busy hb2
  refine (readByte_emits hb3).bind fun _ s4 h4 => ?_
  refine (readByte_emits (h4.busy hb3)).bind fun _ s5 _ => ?_
  exact .of_assignment rfl rfl id rfl

/-- An operation that answers a next state has added the pulses of its flow. -/
theorem outcome_addsPulses {l : List (Fin 3)} {close : Flow Unit → State} {s t : State} {x : Flow Unit}
    (hval : ∀ u, (close (.val () u)).history = u.history) (herr : ∀ e u, (close (.err e u)).history = u.history)
    (hrst : ∀ u, (close (.rst u)).history = u.history) (h : outcome close s x = .next t) (hx : x.Emits l s) :
    AddsPulses l s t := by
  obtain ⟨rfl, hends⟩ := outcome_next h hx
  cases x with
  | val _ u => exact hends.pulses.of_same_history (hval u)
  | err e u => exact hends.pulses.of_same_history (herr e u)
  | rst u => exact AddsPulses.of_same_history hends (hrst u)
  | ref u => exact hends.elim

theorem exec_addsPulses {i : Instr} {s t : State} (h : exec i s = .next t) : AddsPulses [] s t := by
  have hconclude {x : Flow Unit} (h : outcome conclude s x = .next t) (hx : x.Emits [] s) : AddsPulses [] s t :=
    outcome_addsPulses (fun _ => rfl) (fun _ _ => rfl) (fun _ => rfl) h hx
  cases i with
  | nop => cases h; exact .of_history_eq rfl
  | loadCal => exact hconclude h (load_emits s)
  | initSync => exact hconclude h (initSync_emits s)
  | initAsync => exact hconclude h (initAsync_emits s)
  | readUt => exact hconclude h (readUt_emits s)
  | readUp => exact hconclude h (readUp_emits s)
  | compensate => exact hconclude h (compensate_emits s)
  | setOss o => cases h; exact .of_history_eq (by split_ifs <;> rfl)
  | setCb m => cases h; exact .of_history_eq rfl
  | step => cases h; exact .of_history_eq (by split_ifs <;> rfl)
  | cmdTemp => cases h; exact ⟨[_], rfl, .slnil⟩
  | cmdPres o => cases h; exact ⟨[_], rfl, .slnil⟩

/-! ### A STEP -/

theorem stepCommFail_emits {s : State} (hb : busy s = true) : (stepCommFail s).Emits [] s := by
  have herr : Onward [] s (setErr (errMask .comm) s) := .of_assignment rfl rfl id rfl
  exact herr.emits (Flow.Emits.bind (diag_emits hb) fun _ _ _ => .of_assignment rfl rfl id rfl)

theorem invalidCommFail_emits {s : State} (hb : busy s = true) : (invalidCommFail s).Emits [] s := by
  have herr : Onward [] s (setErr (errMask .comm) { s with astate := awaitingTemperature }) :=
    .of_assignment rfl rfl id rfl
  exact herr.emits (diag_emits hb)

theorem stageTemperature_emits {s : State} (hb : busy s = true) : (stageTemperature s).Emits [] s := by
  refine (readByte_emits hb).bind fun msb s1 h1 => ?_
  refine (readByte_emits (h1.busy hb)).bind fun lsb s2 _ => ?_
  have hbuf : Onward [] s2 { s2 with utBuf := half msb lsb } := .of_assignment rfl rfl id rfl
  exact hbuf.emits ((startConversion_emits _ _).bind fun _ _ _ => .of_assignment rfl rfl id rfl)

theorem stageInvalid_emits {s : State} (hb : busy s = true) : (stageInvalid s).Emits [] s := by
  refine (diag_emits hb).bind fun _ s1 h1 => ?_
  have hb1 := h1.busy hb
  have herr : Onward [] s1 (setErr stateMask s1) := .of_assignment rfl rfl id rfl
  refine Flow.Emits.recover (herr.emits ?_) fun t ht => invalidCommFail_emits (ht.busy hb1)
  exact (startConversion_emits _ _).bind fun _ _ _ => .of_assignment rfl rfl id rfl

theorem deliver_emits {ut : Half} {up : Word} {r : Word × Word} {s : State} (hb : busy s = true) :
    (deliver ut up r s).Emits (enabledChannels s.cbEn) s := by
  have hstore : Onward [] s (storeResult r s) := .of_assignment rfl rfl id rfl
  rw [enabledChannels_eq]
  refine hstore.emits (Flow.Emits.bind_append (emitIf_emits hb rfl) fun _ s1 h1 => ?_)
  have hb1 := h1.busy hb
  have hen1 : s1.cbEn = s.cbEn := h1.cbEn
  rw [← hen1]
  refine (emitIf_emits hb1 rfl).bind_append fun _ s2 h2 => ?_
  rw [← h2.cbEn]
  exact emitIf_emits (h2.busy hb1) rfl

theorem stageCompensate_emits {up : Word} {o : BitVec 2} {s : State} (hb : busy s = true) :
    (stageCompensate up o s).Emits (enabledChannels s.cbEn) s := by
  have hstore : Onward [] s { s with utReg := s.utBuf, upReg := up } := .of_assignment rfl rfl id rfl
  refine hstore.emits (Flow.Emits.bind (gap_emits hb) fun _ s1 h1 => ?_)
  have hen1 : s1.cbEn = s.cbEn := h1.cbEn
  split
  · have hdiv0 : Onward [] s1 (stepDiv0 s1) := .of_assignment rfl rfl id rfl
    exact hdiv0.mono (List.nil_sublist _)
  · exact hen1 ▸ deliver_emits (h1.busy hb)

theorem stagePressure_emits {s : State} (hb : busy s = true) :
    (stagePressure s).Emits (enabledChannels s.cbEn) s := by
  refine (readByte_emits hb).bind fun msb s1 h1 => ?_
  have hb1 := h1.busy hb
  refine (readByte_emits hb1).bind fun lsb s2 h2 => ?_
  have hb2 := h2.busy hb1
  refine (readByte_emits hb2).bind fun xlsb s3 h3 => ?_
  have hen3 : s3.cbEn = s.cbEn := h3.cbEn.trans (h2.cbEn.trans h1.cbEn)
  rw [← hen3, ← List.append_nil (enabledChannels s3.cbEn)]
  refine (stageCompensate_emits (h3.busy hb2)).bind_append fun _ s4 _ => ?_
  exact (startConversion_emits _ _).bind fun _ _ _ => .of_assignment rfl rfl id rfl

/-- The channels that a STEP from `s` may pulse (R136). -/
def stepChannels (s : State) : List (Fin 3) :=
  if s.astate = awaitingPressure then enabledChannels s.cbEn else []

theorem stepChannels_sublist (s : State) : (stepChannels s).Sublist (enabledChannels s.cbEn) := by
  unfold stepChannels
  split_ifs
  · exact .refl _
  · exact List.nil_sublist _

theorem stepStage_emits {s : State} (hb : busy s = true) : (stepStage s).Emits (stepChannels s) s := by
  unfold stepChannels
  split_ifs with hp
  · rw [stepStage_pressure hp]
    exact (stagePressure_emits hb).recover fun t ht => stepCommFail_emits (ht.busy hb)
  · by_cases ht : s.astate = awaitingTemperature
    · rw [stepStage_temperature ht]
      exact (stageTemperature_emits hb).recover fun t ht => stepCommFail_emits (ht.busy hb)
    · rw [stepStage_invalid ht hp]
      exact stageInvalid_emits hb

theorem asyncStep_addsPulses {s t : State} (h : asyncStep s = .next t) : AddsPulses (stepChannels s) s t :=
  outcome_addsPulses (s := startStep s) (fun _ => rfl) (fun _ _ => rfl) (fun _ => rfl) h (stepStage_emits rfl)

/-! ### A step outside async mode -/

theorem takeCycle_frame {s s' : State} {c : Cycle} (h : takeCycle s = (c, s')) :
    s'.history = s.history ∧ s'.mode = s.mode := by
  unfold takeCycle at h
  split at h <;> cases h <;> exact ⟨rfl, rfl⟩

theorem hostAccess_frame (a : HostAccess) (s : State) :
    (hostAccess a s).history = s.history ∧ (hostAccess a s).mode = s.mode := by
  cases a with
  | idle => exact ⟨rfl, rfl⟩
  | read off n => exact ⟨rfl, rfl⟩
  | write off n w =>
    simp only [hostAccess, writeReg]
    repeat' split
    all_goals exact ⟨rfl, rfl⟩

theorem corruptAstate_mode (v : Option (BitVec 2)) (s : State) : (corruptAstate v s).mode = s.mode := by
  unfold corruptAstate
  repeat' split
  all_goals rfl

/-- An upset is an event, but no pulse (R153). -/
theorem corruptAstate_addsPulses (v : Option (BitVec 2)) (s : State) : AddsPulses [] s (corruptAstate v s) := by
  unfold corruptAstate
  split
  · exact .of_history_eq rfl
  · split_ifs
    · exact ⟨[_], rfl, .slnil⟩
    · exact .of_history_eq rfl

theorem startOwed_of_not_async {s : State} (hm : s.mode ≠ modeAsync) (owed : Bool) : startOwed owed s = .next s := by
  simp [startOwed, hm]

theorem commandWrite_addsPulses {owed : Bool} {w : Word} {s t : State} (hm : s.mode ≠ modeAsync)
    (h : commandWrite owed w s = .next t) : AddsPulses [] s t := by
  unfold commandWrite at h
  split_ifs at h
  · cases h
    exact .of_history_eq rfl
  · split at h
    · exact exec_addsPulses h
    · rw [startOwed_of_not_async (s := illegalCommand s) hm] at h
      cases h
      exact .of_history_eq rfl

theorem step_addsPulses {s t : State} (hm : s.mode ≠ modeAsync) (h : step s = .next t) : AddsPulses [] s t := by
  obtain ⟨c, s', htake, hcases⟩ := step_cases h
  obtain ⟨hhist, hmode⟩ := takeCycle_frame htake
  have htaken : AddsPulses [] s s' := .of_history_eq hhist
  refine htaken.trans ?_
  have hsample : AddsPulses [] s' (sampleEoc c.eoc (corruptAstate c.corrupt s')) :=
    (corruptAstate_addsPulses c.corrupt s').of_same_history rfl
  have hm1 : (sampleEoc c.eoc (corruptAstate c.corrupt s')).mode ≠ modeAsync := by
    rwa [sampleEoc_mode, corruptAstate_mode, hmode]
  generalize sampleEoc c.eoc (corruptAstate c.corrupt s') = s1 at hcases hsample hm1
  obtain ⟨hhist2, hmode2⟩ := hostAccess_frame c.host s1
  have hhost : AddsPulses [] s' (hostAccess c.host s1) := hsample.of_same_history hhist2
  obtain ⟨-, rfl⟩ | ⟨-, b, i, u, -, -, hexec, rfl⟩ | ⟨-, w, -, hcmd⟩ | ⟨-, -, howed⟩ := hcases
  · exact .of_history_eq rfl
  · exact hhost.trans ((exec_addsPulses hexec).of_same_history rfl)
  · exact hsample.trans (commandWrite_addsPulses hm1 hcmd)
  · rw [startOwed_of_not_async (hmode2 ▸ hm1)] at howed
    cases howed
    exact hhost

/-- Settles O58: the channels a STEP may pulse are the enabled ones, each listed once, and none outside the pressure stage;
a command, and a step outside async mode, may pulse none. -/
theorem pulsesOnlyFromPressureStage : Obligations.PulsesOnlyFromPressureStage := by
  refine ⟨fun i s t h => (exec_addsPulses h).none, fun s t hm h => (step_addsPulses hm h).none, fun s t h => ?_⟩
  obtain ⟨es, hes, hl⟩ := asyncStep_addsPulses h
  have hen := hl.trans (stepChannels_sublist s)
  have hone := length_filter_channel_le_one hen (enabledChannels_nodup s.cbEn)
  have hoff (k : Fin 3) (hk : s.cbEn.getLsbD k = false) := channel_ne_of_not_mem hen (not_mem_enabledChannels hk)
  rw [Event.isTemp_eq_channel, Event.isPress_eq_channel, Event.isAlt_eq_channel]
  refine ⟨es, hes, hone 0, hone 1, hone 2, hoff 0, hoff 1, hoff 2, fun hp => ?_⟩
  rw [stepChannels, if_neg hp] at hl
  exact isPulse_false_of_channels_nil hl

end Sys2Proof.Machine
end

section
/-! SUPPORT, and the obligations settled with it: the control commands NOP, SET_OSS, SET_CB and STEP (R137 to R140), a CMD
write that is rejected or ILLEGAL (R68, R142), and the step that fetches a placed command word (R38, R150). -/
namespace Sys2Proof.Machine

/-! ### The control commands (R137 to R140) -/

theorem exec_nop (s : State) : exec .nop s = .next (finishOk s) := rfl

theorem exec_setCb (m : BitVec 3) (s : State) : exec (.setCb m) s = .next (finishOk { s with cbEn := m }) := rfl

theorem exec_setOss_locked {s : State} (hlock : s.mode = modeAsync ∧ s.astate = awaitingPressure) (o : BitVec 2) :
    exec (.setOss o) s = .next (raise .ossLocked s) := congrArg Host.Outcome.next (if_pos hlock)

theorem exec_setOss_unlocked {s : State} (hfree : ¬(s.mode = modeAsync ∧ s.astate = awaitingPressure)) (o : BitVec 2) :
    exec (.setOss o) s = .next (finishOk { s with oss := o }) := congrArg Host.Outcome.next (if_neg hfree)

theorem exec_step_of_not_async {s : State} (hm : s.mode ≠ modeAsync) : exec .step s = .next (raise .mode s) :=
  congrArg Host.Outcome.next (if_pos hm)

theorem exec_step_async {s : State} (hm : s.mode = modeAsync) :
    exec .step s = .next (finishOk { s with eocPend := true }) := congrArg Host.Outcome.next (if_neg (not_not_intro hm))

theorem decodeHost_setOss : ∀ o : BitVec 2,
    decodeHost (0x00000007#32 ||| (o.setWidth 32 <<< 4)) = .ok (.setOss o) := by
  decide

theorem decodeHost_setCb : ∀ m : BitVec 3,
    decodeHost (0x00000008#32 ||| (m.setWidth 32 <<< 6)) = .ok (.setCb m) := by
  decide

/-! ### A CMD write, and the step that fetches a placed command word (R68, R142, R150) -/

theorem commandWrite_busy {s : State} (hb : busy s = true) (owed : Bool) (w : Word) :
    commandWrite owed w s = .next (rejectBusy s) := if_pos hb

theorem busy_of_idle {s : State} (hidle : s.seq = .idle) : busy s = false := by simp [busy, hidle]

theorem startOwed_false (s : State) : startOwed false s = .next s := rfl

theorem commandWrite_illegal {s : State} {w : Word} {e : DecodeError} (hidle : s.seq = .idle)
    (hbad : decodeHost w = .error e) : commandWrite false w s = .next (illegalCommand s) := by
  simp [commandWrite, busy_of_idle hidle, hbad, startOwed_false]

/-- With the sequencer idle already, an ILLEGAL word's report leaves it as it is (R142). -/
theorem illegalCommand_idle {s : State} (hidle : s.seq = .idle) :
    illegalCommand s = { s with lastResult := 5#4, err := s.err ||| 0x10#8 } := by
  rw [illegalCommand, raise, ← hidle]
  rfl

/-- A level that has not changed is no edge (R149). -/
theorem sampleEoc_same_level (s : State) : sampleEoc s.eocPrev s = s := by simp [sampleEoc]

/-- A cycle in which the host writes a word to CMD, and nothing else happens, is that write (R38, R150). -/
theorem runCycle_commandCycle {s : State} (hidle : s.seq = .idle) (w : Word) :
    runCycle (commandCycle s.eocPrev w) s = commandWrite s.eocPend w s := by
  have hsample : sampleEoc s.eocPrev (corruptAstate none s) = s := sampleEoc_same_level s
  simp [runCycle, commandCycle, quietCycle, HostAccess.admitted, HostAccess.command, offCmd, hsample, hidle]

theorem step_withFetchWord_host {s : State} (hwf : s.cfg.wf = true) (w : Nat) :
    step (s.withFetchWord 32 w) = commandWrite s.eocPend (BitVec.ofNat 32 w) { s with seq := .idle } :=
  (step_eq_runCycle (s := s.withFetchWord 32 w) hwf rfl).trans
    (runCycle_commandCycle (s := { s with seq := .idle }) rfl _)

/-! ### The obligations -/

/-- Settles O22: the word is evaluated by the decoder, and NOP only ends in success. -/
theorem nopCompletes : Obligations.NopCompletes := ⟨rfl, exec_nop⟩

/-- Settles O23: the lock's two branches, and the rejection of any CMD write while BUSY = 1. -/
theorem setOssCompletesOrLocks : Obligations.SetOssCompletesOrLocks := fun _ o =>
  ⟨decodeHost_setOss o, fun hfree => exec_setOss_unlocked hfree o,
    fun hm ha => exec_setOss_locked ⟨hm, ha⟩ o, fun owed hb => commandWrite_busy hb owed _⟩

/-- Settles O24: each mask is evaluated by the decoder, and SET_CB has one outcome. -/
theorem setCbCompletes : Obligations.SetCbCompletes := fun s m => ⟨decodeHost_setCb m, exec_setCb m s⟩

/-- Settles O25: the two sides of the mode check. -/
theorem stepCommandOwesStep : Obligations.StepCommandOwesStep :=
  ⟨rfl, fun _ => ⟨exec_step_async, exec_step_of_not_async⟩⟩

/-- Settles O26: with no STEP owed a CMD write of an ILLEGAL word is its report alone, and a placed word is such a write. -/
theorem illegalWordOnlyReports : Obligations.IllegalWordOnlyReports := by
  refine ⟨fun s w e hidle hbad => ?_, fun s w e hwf howed hbad => ?_⟩
  · rw [commandWrite_illegal hidle hbad, illegalCommand_idle hidle]
  · rw [step_withFetchWord_host hwf, howed]
    exact commandWrite_illegal rfl hbad

end Sys2Proof.Machine
end

section
/-! SUPPORT, and the obligation settled with it: what a word write to CMD, UT_REG, UP_REG or ERR does while an operation
runs (R37, R145). -/
namespace Sys2Proof.Machine

/-- A CMD write has no effect on the registers; the command it may start is not the register window's (R68). -/
theorem writeReg_cmd (w : Word) (s : State) : writeReg 0x00#8 w s = if busy s then rejectBusy s else s := rfl

theorem writeReg_err (w : Word) (s : State) : writeReg 0x08#8 w s = clearErr w s := rfl

/-- While BUSY = 1 a write to any of the three rejected registers comes to the same thing (R145). -/
theorem writeReg_rejected {s : State} (hb : busy s = true) {off : BitVec 8}
    (hoff : off = 0x00#8 ∨ off = 0x0C#8 ∨ off = 0x10#8) (w : Word) : writeReg off w s = rejectBusy s := by
  obtain rfl | rfl | rfl := hoff
  · rw [writeReg_cmd, if_pos hb]
  · rw [writeReg_utReg, if_pos hb]
  · rw [writeReg_upReg, if_pos hb]

/-- Settles O21: the three rejected registers, then ERR and the reads, which BUSY does not touch. -/
theorem busyWritesRejected : Obligations.BusyWritesRejected := fun s w hb =>
  ⟨fun _ hoff => writeReg_rejected hb hoff w, writeReg_err w s, fun _ => rfl⟩

end Sys2Proof.Machine
end

section
/-! SUPPORT, and the obligations settled with it: the two formats (R62 to R71) field by field. A command word is its four
fields, and the decoder reads each of them. -/
namespace Sys2Proof.Machine

/-! ### The fields of a command word, in numbers (R63) -/

theorem opcField_toNat (w : BitVec 32) : (opcField w).toNat = w.toNat % 16 := by
  simp [opcField, BitVec.extractLsb'_toNat]

theorem ossField_toNat (w : BitVec 32) : (ossField w).toNat = w.toNat / 16 % 4 := by
  simp [ossField, BitVec.extractLsb'_toNat, Nat.shiftRight_eq_div_pow]

theorem cbmField_toNat (w : BitVec 32) : (cbmField w).toNat = w.toNat / 64 % 8 := by
  simp [cbmField, BitVec.extractLsb'_toNat, Nat.shiftRight_eq_div_pow]

theorem rsvField_toNat (w : BitVec 32) : (rsvField w).toNat = w.toNat / 512 := by
  have hw := w.isLt
  simp only [rsvField, BitVec.extractLsb'_toNat, Nat.shiftRight_eq_div_pow]
  omega

/-- The command word with the given fields, and RSV at zero. -/
def wordOfFields (cbm : BitVec 3) (oss : BitVec 2) (opc : BitVec 4) : BitVec 32 := 0#23 ++ cbm ++ oss ++ opc

theorem wordOfFields_toNat (cbm : BitVec 3) (oss : BitVec 2) (opc : BitVec 4) :
    (wordOfFields cbm oss opc).toNat = cbm.toNat * 64 + oss.toNat * 16 + opc.toNat := by
  rw [wordOfFields, BitVec.toNat_append, BitVec.toNat_append, BitVec.toNat_append,
    ← Nat.shiftLeft_add_eq_or_of_lt opc.isLt, ← Nat.shiftLeft_add_eq_or_of_lt oss.isLt,
    ← Nat.shiftLeft_add_eq_or_of_lt cbm.isLt]
  simp only [Nat.shiftLeft_eq, BitVec.toNat_ofNat]
  omega

theorem eq_wordOfFields {w : BitVec 32} (hrsv : rsvField w = 0#23) :
    w = wordOfFields (cbmField w) (ossField w) (opcField w) := by
  have hrsv : w.toNat / 512 = 0 := by rw [← rsvField_toNat, hrsv]; rfl
  apply BitVec.eq_of_toNat_eq
  rw [wordOfFields_toNat, opcField_toNat, ossField_toNat, cbmField_toNat]
  omega

/-! ### The decoder of command words (R67, R68) -/

/-- The four cases of R67, of the fields. -/
def IllegalFields (w : BitVec 32) : Prop :=
  0xA#4 ≤ opcField w ∨ rsvField w ≠ 0#23 ∨ (ossField w ≠ 0#2 ∧ opcField w ≠ 0x7#4)
    ∨ (cbmField w ≠ 0#3 ∧ opcField w ≠ 0x8#4)

/-- The operation of a word whose fields no case of R67 refuses (R64). -/
def hostInstr (cbm : BitVec 3) (oss : BitVec 2) (opc : BitVec 4) : Instr :=
  match opc.toNat with
  | 0x0 => .nop
  | 0x1 => .loadCal
  | 0x2 => .initSync
  | 0x3 => .initAsync
  | 0x4 => .readUt
  | 0x5 => .readUp
  | 0x6 => .compensate
  | 0x7 => .setOss oss
  | 0x8 => .setCb cbm
  | _ => .step

theorem decodeHost_of_illegal {w : BitVec 32} (h : IllegalFields w) : ∃ e, decodeHost w = .error e := by
  unfold decodeHost
  split_ifs with hopc hrsv hoss hcbm
  iterate 4 exact ⟨_, rfl⟩
  exact absurd h (by simp [IllegalFields, hopc, hrsv, hoss, hcbm])

theorem decodeHost_of_legal {w : BitVec 32} (h : ¬IllegalFields w) :
    decodeHost w = .ok (hostInstr (cbmField w) (ossField w) (opcField w)) := by
  simp only [IllegalFields, not_or] at h
  obtain ⟨hopc, hrsv, hoss, hcbm⟩ := h
  unfold decodeHost
  rw [if_neg hopc, if_neg hrsv, if_neg hoss, if_neg hcbm]
  have hlt : (opcField w).toNat < 10 := by simpa [BitVec.le_def] using hopc
  unfold hostInstr
  interval_cases (opcField w).toNat <;> rfl

theorem decodeHost_error_iff (w : BitVec 32) : (∃ e, decodeHost w = .error e) ↔ IllegalFields w := by
  refine ⟨fun ⟨e, he⟩ => ?_, decodeHost_of_illegal⟩
  by_contra h
  rw [decodeHost_of_legal h] at he
  cases he

/-! ### Encoding after decoding -/

/-- The unused fields of a legal word are zero, so its operation and operand give the word back. -/
theorem encode_hostInstr (cfg : Config) {cbm : BitVec 3} {oss : BitVec 2} {opc : BitVec 4} (hopc : opc.toNat < 10)
    (hoss : oss = 0#2 ∨ opc = 0x7#4) (hcbm : cbm = 0#3 ∨ opc = 0x8#4) :
    encode cfg (hostInstr cbm oss opc) = .host (wordOfFields cbm oss opc) := by
  by_cases h7 : opc = 0x7#4
  · obtain rfl : cbm = 0#3 := hcbm.resolve_right (by rw [h7]; decide)
    subst h7
    exact congrArg CmdWord.host (by revert oss; decide)
  · obtain rfl : oss = 0#2 := hoss.resolve_right h7
    by_cases h8 : opc = 0x8#4
    · subst h8
      exact congrArg CmdWord.host (by revert cbm; decide)
    · obtain rfl : cbm = 0#3 := hcbm.resolve_right h8
      have hn : opc = BitVec.ofNat 4 opc.toNat := by simp
      rw [hn]
      interval_cases opc.toNat <;> rfl

theorem decodeHost_reencodes (cfg : Config) {w : BitVec 32} {i : Instr} (h : decodeHost w = .ok i) :
    encode cfg i = .host w := by
  have hlegal : ¬IllegalFields w := fun hbad => by
    obtain ⟨e, he⟩ := decodeHost_of_illegal hbad
    rw [h] at he
    cases he
  rw [decodeHost_of_legal hlegal] at h
  cases h
  simp only [IllegalFields, not_or, not_and_or, not_not] at hlegal
  obtain ⟨hopc, hrsv, hoss, hcbm⟩ := hlegal
  rw [encode_hostInstr cfg (by simpa [BitVec.le_def] using hopc) hoss hcbm, ← eq_wordOfFields hrsv]

/-- A byte is its level over its six low bits. -/
theorem presByte_of_fields {cfg : Config} (hwf : cfg.wf = true) {b : Byte}
    (hlow : b.extractLsb' 0 6 = cfg.cmdPresBase.extractLsb' 0 6) : presByte cfg (b.extractLsb' 6 2) = b := by
  have hsplit (x : Byte) : x = x.extractLsb' 6 2 ++ x.extractLsb' 0 6 :=
    BitVec.extractLsb'_eq_self.symm.trans
      (BitVec.extractLsb'_append_extractLsb'_eq_extractLsb' (start₁ := 0) (len₁ := 6) (len₂ := 2) rfl).symm
  rw [hsplit (presByte cfg (b.extractLsb' 6 2)), presByte_level hwf, presByte_base, ← hlow, ← hsplit]

theorem decodeSens_reencodes {cfg : Config} (hwf : cfg.wf = true) {b : Byte} {i : Instr}
    (h : decodeSens cfg b = .ok i) : encode cfg i = .sens b := by
  unfold decodeSens at h
  split_ifs at h with htemp hlow
  · cases h
    exact congrArg CmdWord.sens htemp.symm
  · cases h
    exact congrArg CmdWord.sens (presByte_of_fields hwf hlow)

/-- Settles O2: the fields a decoder reads make up the whole word or byte. -/
theorem decodedWordReencodes : Obligations.DecodedWordReencodes := by
  intro cfg c i hwf h
  cases c with
  | host w => exact decodeHost_reencodes cfg h
  | sens b => exact decodeSens_reencodes hwf h

/-! ### Decoding after encoding -/

/-- The six low bits tell a pressure start byte from `CMD_TEMP`, and bits 7:6 are its level (R70). -/
theorem decodeSens_presByte {cfg : Config} {o : BitVec 2} (hwf : (Instr.cmdPres o).wf cfg = true) :
    decodeSens cfg (presByte cfg o) = .ok (.cmdPres o) := by
  obtain ⟨hcfg, hclash⟩ : cfg.wf = true ∧ cfg.cmdTemp.extractLsb' 0 6 ≠ cfg.cmdPresBase.extractLsb' 0 6 := by
    simpa [Instr.wf] using hwf
  have htemp : presByte cfg o ≠ cfg.cmdTemp := fun h => hclash (h ▸ presByte_base cfg o)
  rw [decodeSens, if_neg htemp, if_pos (presByte_base cfg o), presByte_level hcfg]

/-- Settles O1: a word without operand is evaluated by the decoder, and each operand is read back from its field. -/
theorem encodedInstructionDecodes : Obligations.EncodedInstructionDecodes := by
  intro cfg i hwf
  cases i with
  | setOss o => exact decodeHost_setOss o
  | setCb m => exact decodeHost_setCb m
  | cmdTemp => exact if_pos rfl
  | cmdPres o => exact decodeSens_presByte hwf
  | nop | loadCal | initSync | initAsync | readUt | readUp | compensate | step => rfl

/-- Settles O3: the four cases of R67, with each field as a quotient and remainder of the word. -/
theorem illegalWordsAreExactly : Obligations.IllegalWordsAreExactly := by
  intro w
  rw [decodeHost_error_iff, IllegalFields]
  simp only [BitVec.le_def, ne_eq, BitVec.toNat_eq, opcField_toNat, ossField_toNat, cbmField_toNat, rsvField_toNat]
  rfl

end Sys2Proof.Machine
end

section
/-! SUPPORT. What the stretches of an operation keep and add, under any inputs and any answers, said once for all the
statements about whole operations and steps: which registers they leave, what the edge detector and ERR have become, and
that they make no bus transaction after a failed one (R58, R146). -/
namespace Sys2Proof.Machine

/-! ### Events -/

/-- No bus transaction. -/
def NoBus (es : List Event) : Prop := ∀ e ∈ es, e.isBus = false

/-- No failed bus transaction. -/
def NoFailure (es : List Event) : Prop := ∀ e ∈ es, e.failed = false

theorem Event.failed_of_not_isBus {e : Event} (h : e.isBus = false) : e.failed = false := by
  cases e with
  | busRd _ _ _ => cases h
  | busWr _ _ _ _ => cases h
  | wait _ | temp _ _ | press _ _ | alt _ | diag _ _ | corrupt _ => rfl

theorem NoBus.noFailure {es : List Event} (h : NoBus es) : NoFailure es := fun e he =>
  Event.failed_of_not_isBus (h e he)

theorem noBus_nil : NoBus [] := fun _ h => nomatch h

theorem noFailure_nil : NoFailure [] := fun _ h => nomatch h

theorem noBusAfterFailure_nil : NoBusAfterFailure [] := fun pre _ _ h => by simp at h

theorem noFailure_singleton {e : Event} (h : e.failed = false) : NoFailure [e] := fun _ hx => by
  rwa [List.mem_singleton.1 hx]

theorem noBus_singleton {e : Event} (h : e.isBus = false) : NoBus [e] := fun _ hx => by
  rwa [List.mem_singleton.1 hx]

theorem NoFailure.append {es fs : List Event} (h1 : NoFailure es) (h2 : NoFailure fs) : NoFailure (es ++ fs) :=
  fun e he => (List.mem_append.1 he).elim (h1 e) (h2 e)

theorem NoBus.append {es fs : List Event} (h1 : NoBus es) (h2 : NoBus fs) : NoBus (es ++ fs) :=
  fun e he => (List.mem_append.1 he).elim (h1 e) (h2 e)

theorem noBusAfterFailure_cons {e : Event} {es : List Event} :
    NoBusAfterFailure (e :: es) ↔ (e.failed = true → NoBus es) ∧ NoBusAfterFailure es := by
  refine ⟨fun h => ⟨fun he => h [] e es rfl he, fun pre x post hes => h (e :: pre) x post (by rw [hes]; rfl)⟩,
    fun ⟨h1, h2⟩ pre x post hes hx => ?_⟩
  cases pre with
  | nil =>
    cases hes
    exact h1 hx
  | cons y ys =>
    cases hes
    exact h2 ys x post rfl hx

/-- As a relation between each event and those after it. -/
theorem noBusAfterFailure_iff_pairwise (es : List Event) :
    NoBusAfterFailure es ↔ es.Pairwise fun e x => e.failed = true → x.isBus = false := by
  induction es with
  | nil => simp [NoBusAfterFailure]
  | cons e es ih =>
    rw [noBusAfterFailure_cons, List.pairwise_cons, ih]
    exact and_congr_left' ⟨fun h x hx he => h he x hx, fun h he x hx => h x hx he⟩

theorem noBusAfterFailure_singleton (e : Event) : NoBusAfterFailure [e] :=
  (noBusAfterFailure_iff_pairwise _).2 (List.pairwise_singleton _ _)

theorem NoFailure.noBusAfterFailure {es : List Event} (h : NoFailure es) : NoBusAfterFailure es :=
  (noBusAfterFailure_iff_pairwise _).2 (List.pairwise_of_forall_mem_list fun e he _ _ hf => by simp [h e he] at hf)

/-- What went well before does not count. -/
theorem NoFailure.append_noBusAfterFailure {es fs : List Event} (h1 : NoFailure es) (h2 : NoBusAfterFailure fs) :
    NoBusAfterFailure (es ++ fs) := by
  rw [noBusAfterFailure_iff_pairwise] at *
  refine List.pairwise_append.2 ⟨(noBusAfterFailure_iff_pairwise _).1 h1.noBusAfterFailure, h2, fun e he _ _ hf => ?_⟩
  simp [h1 e he] at hf

/-- Events that are no transactions may follow a failed one. -/
theorem NoBusAfterFailure.append_noBus {es fs : List Event} (h1 : NoBusAfterFailure es) (h2 : NoBus fs) :
    NoBusAfterFailure (es ++ fs) := by
  have hfs := h2.noFailure.noBusAfterFailure
  rw [noBusAfterFailure_iff_pairwise] at *
  exact List.pairwise_append.2 ⟨h1, hfs, fun _ _ x hx _ => h2 x hx⟩

/-- From `s` to `t` events were added, and they are as `P` says. -/
def AddsEvents (P : List Event → Prop) (s t : State) : Prop := ∃ es, t.history = s.history ++ es ∧ P es

theorem AddsEvents.trans {P Q R : List Event → Prop} {s t u : State} (h1 : AddsEvents P s t) (h2 : AddsEvents Q t u)
    (h : ∀ es fs, P es → Q fs → R (es ++ fs)) : AddsEvents R s u := by
  obtain ⟨es, hes, hp⟩ := h1
  obtain ⟨fs, hfs, hq⟩ := h2
  exact ⟨es ++ fs, by rw [hfs, hes, List.append_assoc], h es fs hp hq⟩

theorem AddsEvents.of_history_eq {P : List Event → Prop} {s t : State} (h : t.history = s.history) (hP : P []) :
    AddsEvents P s t := ⟨[], by rw [h, List.append_nil], hP⟩

theorem AddsEvents.mono {P Q : List Event → Prop} {s t : State} (h : AddsEvents P s t) (hPQ : ∀ es, P es → Q es) :
    AddsEvents Q s t := by
  obtain ⟨es, hes, hp⟩ := h
  exact ⟨es, hes, hPQ es hp⟩

/-! ### Registers -/

/-- The registers that no cycle inside an operation changes but some assignment of an operation may, and the configuration.
ERR, MODE and the edge detector's bits have rules of their own. -/
inductive Field where
  | cfg | cal | calValid | calShadow | waitCnt | oss | astate | utBuf | cbEn | utReg | upReg | tReg | pReg | resValid
  | lastResult
  deriving DecidableEq

/-- The register has the same value in both states. -/
def Field.Same (s t : State) : Field → Prop
  | .cfg => t.cfg = s.cfg
  | .cal => t.cal = s.cal
  | .calValid => t.calValid = s.calValid
  | .calShadow => t.calShadow = s.calShadow
  | .waitCnt => t.waitCnt = s.waitCnt
  | .oss => t.oss = s.oss
  | .astate => t.astate = s.astate
  | .utBuf => t.utBuf = s.utBuf
  | .cbEn => t.cbEn = s.cbEn
  | .utReg => t.utReg = s.utReg
  | .upReg => t.upReg = s.upReg
  | .tReg => t.tReg = s.tReg
  | .pReg => t.pReg = s.pReg
  | .resValid => t.resValid = s.resValid
  | .lastResult => t.lastResult = s.lastResult

theorem Field.same_refl (s : State) (f : Field) : f.Same s s := by cases f <;> rfl

theorem Field.Same.trans {s t u : State} {f : Field} (h1 : f.Same s t) (h2 : f.Same t u) : f.Same s u := by
  cases f <;> exact Eq.trans h2 h1

/-- Only the registers `w` have changed. -/
def ChangesOnly (w : List Field) (s t : State) : Prop := ∀ f, f ∈ w ∨ f.Same s t

theorem ChangesOnly.refl (w : List Field) (s : State) : ChangesOnly w s s := fun f => .inr (f.same_refl s)

theorem ChangesOnly.trans {w : List Field} {s t u : State} (h1 : ChangesOnly w s t) (h2 : ChangesOnly w t u) :
    ChangesOnly w s u := fun f =>
  (h1 f).elim .inl fun a => (h2 f).imp_right a.trans

theorem ChangesOnly.mono {v w : List Field} {s t : State} (h : ChangesOnly v s t) (hvw : v ⊆ w) : ChangesOnly w s t :=
  fun f => (h f).imp_left (hvw ·)

theorem Interleaved.changesOnly {s t : State} (h : Interleaved s t) (w : List Field) : ChangesOnly w s t := by
  intro f
  rw [h.same]
  cases f <;> exact .inr rfl

/-! ### A stretch of an operation -/

/-- `t` is a later state of the operation that `s` is in: it has written no register but `w`, has set no ERR bits but `k`
and BUSY, and has added events as `P` says. -/
structure Later (w : List Field) (k : BitVec 8) (P : List Event → Prop) (s t : State) : Prop where
  changes : ChangesOnly w s t
  mode : t.mode = s.mode
  /-- The wait counter is used by waits only, which leave it at zero (R168). -/
  waitDone : s.waitCnt = 0 → t.waitCnt = 0
  eoc : EocFollows s t
  errKept : NoErrWrite s → s.err &&& t.err = s.err
  errNew : NewErrWithin (busyMask ||| k) s t
  inputs : ∀ c ∈ t.inputs, ∃ d ∈ s.inputs, d.rst = c.rst ∧ d.host = c.host
  busy : busy s = true → busy t = true
  events : AddsEvents P s t

section
variable {w : List Field} {k : BitVec 8} {P Q R : List Event → Prop} {s t u : State}

theorem Later.trans (h1 : Later w k P s t) (h2 : Later w k Q t u) (h : ∀ es fs, P es → Q fs → R (es ++ fs)) :
    Later w k R s u where
  changes := h1.changes.trans h2.changes
  mode := h2.mode.trans h1.mode
  waitDone hs := h2.waitDone (h1.waitDone hs)
  eoc := h1.eoc.trans h1.mode h2.eoc
  errKept hs := and_eq_self_trans (h1.errKept hs) (h2.errKept fun c hc => by
    obtain ⟨d, hd, -, hhost⟩ := h1.inputs c hc
    exact hhost ▸ hs d hd)
  errNew := (BitVec.or_self (x := busyMask ||| k)) ▸ h1.errNew.trans h2.errNew
  inputs c hc := by
    obtain ⟨d, hd, h3, h4⟩ := h2.inputs c hc
    obtain ⟨e, he, h5, h6⟩ := h1.inputs d hd
    exact ⟨e, he, h5.trans h3, h6.trans h4⟩
  busy hs := h2.busy (h1.busy hs)
  events := h1.events.trans h2.events h

theorem Later.mono {v : List Field} (h : Later v k P s t) (hvw : v ⊆ w) (hPQ : ∀ es, P es → Q es) :
    Later w k Q s t := { h with changes := h.changes.mono hvw, events := h.events.mono hPQ }

theorem Later.noErrWrite (h : Later w k P s t) (hs : NoErrWrite s) : NoErrWrite t := fun c hc => by
  obtain ⟨d, hd, -, hhost⟩ := h.inputs c hc
  exact hhost ▸ hs d hd

theorem Later.resetToCome (h : Later w k P s t) (ht : ResetToCome t) : ResetToCome s := by
  obtain ⟨c, hc, hr⟩ := ht
  obtain ⟨d, hd, hrst, -⟩ := h.inputs c hc
  exact ⟨d, hd, hrst.trans hr⟩

theorem Later.refusalToCome (h : Later w k P s t) (ht : RefusalToCome t) : RefusalToCome s := by
  obtain ⟨c, hc, hr⟩ := ht
  obtain ⟨d, hd, -, hhost⟩ := h.inputs c hc
  exact ⟨d, hd, hhost ▸ hr⟩

theorem NewErrWithin.of_busy (h : NewErrWithin busyMask s t) : NewErrWithin (busyMask ||| k) s t :=
  h.mono (by rw [BitVec.not_or, ← BitVec.and_assoc, BitVec.and_not_self]; exact BitVec.zero_and)

theorem Interleaved.later (h : Interleaved s t) (hP : P []) : Later w k P s t where
  changes := h.changesOnly w
  mode := h.mode_eq
  waitDone hs := by rw [h.same]; exact hs
  eoc := h.eoc
  errKept := h.errKept
  errNew := h.errNew.of_busy
  inputs := h.inputs
  busy := h.busy
  events := .of_history_eq h.history_eq hP

/-- An assignment to registers of `w`, and the event it comes with, if any. -/
theorem Later.of_assignment {es : List Event} (hh : t.history = s.history ++ es) (hP : P es) (hw : ChangesOnly w s t)
    (ht : t = { t with
      mode := s.mode, eocPrev := s.eocPrev, eocPend := s.eocPend, err := s.err, inputs := s.inputs })
    (hwait : s.waitCnt = 0 → t.waitCnt = 0) (hb : Machine.busy s = true → Machine.busy t = true) :
    Later w k P s t where
  changes := hw
  mode := by rw [ht]
  waitDone := hwait
  eoc := (EocFollows.refl s).congr rfl rfl rfl rfl (by rw [ht]) (by rw [ht]) (by rw [ht])
  errKept _ := by rw [ht, BitVec.and_self]
  errNew := by rw [NewErrWithin, ht]; exact newErrWithin_refl _ s
  inputs c hc := ⟨c, by rw [ht] at hc; exact hc, rfl, rfl⟩
  busy := hb
  events := ⟨es, hh, hP⟩

/-- An assignment to registers of `w` with no event. -/
theorem Later.assign (hP : P []) (hw : ChangesOnly w s t)
    (ht : t = { t with
      mode := s.mode, eocPrev := s.eocPrev, eocPend := s.eocPend, err := s.err, inputs := s.inputs,
      history := s.history })
    (hwait : s.waitCnt = 0 → t.waitCnt = 0) (hb : Machine.busy s = true → Machine.busy t = true) :
    Later w k P s t :=
  .of_assignment (es := []) (by rw [ht, List.append_nil]) hP hw (by rw [ht]) hwait hb

/-- Setting ERR bits clears none (R35). -/
theorem and_or_cancel (a m : BitVec 8) : a &&& (a ||| m) = a := by
  ext i hi
  simp
  exact Or.inl

/-- An error of the operation's own sets its bit (R156). -/
theorem Later.setErr {m : BitVec 8} (hm : m &&& ~~~k = 0#8) (hP : P []) (s : State) : Later w k P s (setErr m s) where
  changes f := .inr (f.same_refl s)
  mode := rfl
  waitDone := id
  eoc := (EocFollows.refl s).congr rfl rfl rfl rfl rfl rfl rfl
  errKept _ := and_or_cancel _ _
  errNew := by
    unfold NewErrWithin
    ext i hi
    have a := congrArg (·[i]) hm
    simp at a ⊢
    grind
  inputs c hc := ⟨c, hc, rfl, rfl⟩
  busy := id
  events := .of_history_eq rfl hP

/-! ### How a stretch ends -/

/-- A reset that was to come has abandoned the operation after the events that `P` says (R164). -/
def ResetAway (P : List Event → Prop) (s t : State) : Prop := ResetToCome s ∧ ∃ u, t = doReset u ∧ AddsEvents P s u

theorem Later.resetAway (h : Later w k P s t) (ht : ResetAway Q t u) (hPQ : ∀ es fs, P es → Q fs → R (es ++ fs)) :
    ResetAway R s u := by
  obtain ⟨hr, v, rfl, hv⟩ := ht
  exact ⟨h.resetToCome hr, v, rfl, h.events.trans hv hPQ⟩

theorem Abandoned.resetAway (h : Abandoned s t) (hP : P []) : ResetAway P s t := by
  obtain ⟨u, ht, hu, hr⟩ := h
  exact ⟨hr, _, ht, .of_history_eq hu.history_eq hP⟩

/-- The flow goes on from `s` having written the registers `w`, or ends with an error of those in the mask `k`, having
written the registers `e`. -/
def Flow.Proceeds {α : Type} (e w : List Field) (k : BitVec 8) (s : State) (x : Flow α) : Prop :=
  x.Ends (fun _ t => Later w k NoFailure s t)
    (fun c t => errMask c &&& ~~~k = 0#8 ∧ Later e k NoBusAfterFailure s t) (ResetAway NoBusAfterFailure s)
    (RefusalToCome s)

theorem Later.proceeds {α : Type} {e v : List Field} {x : Flow α} (h : Later v k NoFailure s t) (hve : v ⊆ e)
    (hvw : v ⊆ w) (hx : x.Proceeds e w k t) : x.Proceeds e w k s :=
  Flow.Ends.mono hx (fun _ _ hu => (h.mono hvw fun _ => id).trans hu fun _ _ => NoFailure.append)
    (fun _ _ hu => ⟨hu.1, (h.mono hve fun _ => id).trans hu.2 fun _ _ => NoFailure.append_noBusAfterFailure⟩)
    (fun _ hu => h.resetAway hu fun _ _ => NoFailure.append_noBusAfterFailure) h.refusalToCome

/-- A sequence whose first part has written the registers `v`. -/
theorem Flow.Proceeds.bind {α β : Type} {e v : List Field} {x : Flow α} {f : α → State → Flow β}
    (hx : x.Proceeds e v k s) (hve : v ⊆ e) (hvw : v ⊆ w)
    (hf : ∀ a t, Later v k NoFailure s t → (f a t).Proceeds e w k t) : (x.bind f).Proceeds e w k s :=
  Flow.Ends.bind hx fun a t ht => ht.proceeds hve hvw (hf a t ht)

end

/-! ### The shared operations -/

section
variable {e w : List Field} {k : BitVec 8} {s : State}

theorem gap_proceeds (hb : busy s = true) : (gap s).Proceeds e w k s :=
  (gap_ends' hb).mono (fun _ _ h => h.later noFailure_nil) (fun _ _ h => h.elim)
    (fun _ h => h.resetAway noBusAfterFailure_nil) id

/-- Cycles, and after them one event and the assignments made with it. -/
theorem Interleaved.later_event {u t : State} {P : List Event → Prop} (h : Interleaved s u) (ev : Event)
    (hh : t.history = s.history ++ [ev]) (hP : P [ev]) (hw : ChangesOnly w u t)
    (ht : t = { t with
      mode := u.mode, eocPrev := u.eocPrev, eocPend := u.eocPend, err := u.err, inputs := u.inputs })
    (hwait : u.waitCnt = 0 → t.waitCnt = 0) (hb : Machine.busy u = true → Machine.busy t = true) : Later w k P s t :=
  (h.later (P := (· = [])) rfl).trans
    (.of_assignment (es := [ev]) (by rw [hh, h.history_eq]) hP hw ht hwait hb) fun _ _ hes hfs => by rwa [hes]

theorem readByte_proceeds (hk : errMask .comm &&& ~~~k = 0#8) (r : Nat) (hb : busy s = true) :
    (readByte r s).Proceeds e w k s := by
  refine (readByte_ends hb).mono (fun b t h => ?_) (fun c t h => ?_) (fun _ h => h.resetAway noBusAfterFailure_nil) id
  · obtain ⟨-, u, hu, rfl⟩ := h
    exact hu.later_event _ rfl (noFailure_singleton rfl) (.refl w u) rfl id id
  · obtain ⟨rfl, -, u, hu, rfl⟩ := h
    exact ⟨hk, hu.later_event _ rfl (noBusAfterFailure_singleton _) (.refl e u) rfl id id⟩

/-- The start command byte is put to the bus port, and BUSY is 1 with it. -/
theorem issue_later {P : List Event → Prop} (hP : P []) (b : Byte) (s : State) :
    Later w k P s { s with seq := .issue b } :=
  .assign hP (.refl w s) rfl id fun _ => rfl

/-- A start command, from the state with its byte at the bus port, in which BUSY = 1. -/
theorem startConversion_issued_proceeds (hk : errMask .comm &&& ~~~k = 0#8) (b : Byte) (s : State) :
    (startConversion b s).Proceeds e w k { s with seq := .issue b } := by
  refine startConversion_ends.mono (fun _ t h => ?_) (fun c t h => ?_) (fun _ h => h.resetAway noBusAfterFailure_nil) id
  · obtain ⟨-, u, hu, rfl⟩ := h
    exact hu.later_event _ rfl (noFailure_singleton rfl) (.refl w u) rfl id fun _ => rfl
  · obtain ⟨rfl, -, u, hu, rfl⟩ := h
    exact ⟨hk, hu.later_event _ rfl (noBusAfterFailure_singleton _) (.refl e u) rfl id fun _ => rfl⟩

theorem startConversion_proceeds (hk : errMask .comm &&& ~~~k = 0#8) (b : Byte) (s : State) :
    (startConversion b s).Proceeds e w k s :=
  (issue_later noFailure_nil b s).proceeds (List.nil_subset e) (List.nil_subset w)
    (startConversion_issued_proceeds hk b s)

/-- An event that is no transaction, with what `P` says of it. -/
theorem emit_later {P : List Event → Prop} (hnil : P []) {ev : Event} (hP : P [ev]) (hb : busy s = true) :
    (emit ev s).Ends (fun _ t => Later w k P s t) (fun _ _ => False) (ResetAway P s) (RefusalToCome s) := by
  refine (emit_ends hb).mono (fun _ t h => ?_) (fun _ _ h => h.elim) (fun _ h => h.resetAway hnil) id
  obtain ⟨u, hu, rfl⟩ := h
  exact hu.later_event ev rfl hP (.refl w u) rfl id id

theorem emit_proceeds {ev : Event} (hev : ev.isBus = false) (hb : busy s = true) : (emit ev s).Proceeds e w k s :=
  (emit_later noBus_nil (noBus_singleton hev) hb).mono
    (fun _ _ h => h.mono (List.Subset.refl w) fun _ => NoBus.noFailure) (fun _ _ h => h.elim) (fun _ ⟨hr, u, ht, hu⟩ => ⟨hr, u, ht, hu.mono fun _ h => h.noFailure.noBusAfterFailure⟩) id

theorem emitIf_proceeds {on : Bool} {ev : Event} (hev : ev.isBus = false) (hb : busy s = true) :
    (emitIf on ev s).Proceeds e w k s := by
  cases on with
  | false => exact (Interleaved.refl s).later noFailure_nil
  | true => exact emit_proceeds hev hb

theorem wait_later (hwc : .waitCnt ∈ w) (us : Nat) (s : State) :
    Later w k NoFailure s { pushEvent (.wait us) s with waitCnt := 0 } :=
  .of_assignment rfl (noFailure_singleton rfl) (fun f => by
    cases f with
    | waitCnt => exact .inl hwc
    | _ => exact .inr rfl) rfl (fun _ => rfl) id

theorem waitFor_proceeds (hwc : .waitCnt ∈ w) (us : Nat) (hb : busy s = true) :
    (waitFor us s).Proceeds e w k s := by
  refine (waitFor_ends hb).mono (fun _ t h => ?_) (fun _ _ h => h.elim) (fun t h => ?_) id
  · obtain ⟨u, hu, ht⟩ := h
    exact ((hu.later noFailure_nil).trans (wait_later hwc us u) fun _ _ => NoFailure.append).trans
      (ht.later noFailure_nil) fun _ _ => NoFailure.append
  · obtain h | ⟨u, n, hu, v, ht, hv, hr⟩ := h
    · exact h.resetAway noBusAfterFailure_nil
    · refine ⟨hu.resetToCome hr, _, ht, [.wait us], ?_, noBusAfterFailure_singleton _⟩
      rw [← hu.history_eq]
      exact hv.history_eq

/-! ### The synchronous commands (R85, R86, R89) -/

/-- The mask of the errors that a synchronous accessor can end with: COMM, MODE and NOTINIT (R85, R146). -/
def syncErrs : BitVec 8 := 0x07#8

theorem syncGuard_proceeds (s : State) : (syncGuard s).Proceeds e w syncErrs s := by
  have here {v : List Field} {P : List Event → Prop} (hP : P []) : Later v syncErrs P s s :=
    (Interleaved.refl s).later hP
  obtain ⟨-, h⟩ | ⟨-, h⟩ | ⟨-, -, h⟩ := syncGuard_cases s
  · rw [h]; exact ⟨by decide, here noBusAfterFailure_nil⟩
  · rw [h]; exact ⟨by decide, here noBusAfterFailure_nil⟩
  · rw [h]; exact here noFailure_nil

theorem readUt_proceeds (s : State) : (readUt s).Proceeds [.waitCnt] [.waitCnt, .utReg] syncErrs s := by
  have hk : errMask .comm &&& ~~~syncErrs = 0#8 := by decide
  have hsub : [Field.waitCnt] ⊆ [.waitCnt, .utReg] := by simp
  have hself : [Field.waitCnt] ⊆ [.waitCnt] := List.Subset.refl _
  refine (syncGuard_proceeds s).bind hself hsub fun _ s0 _ =>
    (issue_later noFailure_nil s0.cfg.cmdTemp s0).proceeds hself hsub ?_
  refine (startConversion_issued_proceeds hk _ s0).bind hself hsub fun _ s1 h1 => ?_
  have hb1 := h1.busy rfl
  refine (waitFor_proceeds (.head _) _ hb1).bind hself hsub fun _ s2 h2 => ?_
  have hb2 := h2.busy hb1
  refine (readByte_proceeds hk _ hb2).bind hself hsub fun _ s3 h3 => ?_
  refine (readByte_proceeds hk _ (h3.busy hb2)).bind hself hsub fun _ s4 _ => ?_
  exact .assign noFailure_nil (fun f => by cases f <;> simp [Field.Same]) rfl id id

theorem readUp_proceeds (s : State) : (readUp s).Proceeds [.waitCnt] [.waitCnt, .upReg] syncErrs s := by
  have hk : errMask .comm &&& ~~~syncErrs = 0#8 := by decide
  have hsub : [Field.waitCnt] ⊆ [.waitCnt, .upReg] := by simp
  have hself : [Field.waitCnt] ⊆ [.waitCnt] := List.Subset.refl _
  refine (syncGuard_proceeds s).bind hself hsub fun _ s0 _ =>
    (issue_later noFailure_nil (presByte s0.cfg s0.oss) s0).proceeds hself hsub ?_
  refine (startConversion_issued_proceeds hk _ s0).bind hself hsub fun _ s1 h1 => ?_
  have hb1 := h1.busy rfl
  refine (waitFor_proceeds (.head _) _ hb1).bind hself hsub fun _ s2 h2 => ?_
  have hb2 := h2.busy hb1
  refine (readByte_proceeds hk _ hb2).bind hself hsub fun _ s3 h3 => ?_
  have hb3 := h3.busy hb2
  refine (readByte_proceeds hk _ hb3).bind hself hsub fun _ s4 h4 => ?_
  refine (readByte_proceeds hk _ (h4.busy hb3)).bind hself hsub fun _ s5 _ => ?_
  exact .assign noFailure_nil (fun f => by cases f <;> simp [Field.Same]) rfl id id

/-! ### COMPENSATE (R96) -/

/-- The mask of the errors of COMPENSATE: NOTINIT and DIV0. -/
def compensateErrs : BitVec 8 := 0x0C#8

theorem compensate_proceeds (s : State) :
    (compensate s).Proceeds [.resValid] [.resValid, .tReg, .pReg] compensateErrs s := by
  unfold compensate
  split_ifs
  · exact ⟨by decide, (Interleaved.refl s).later noBusAfterFailure_nil⟩
  · have hbegin : Later [] compensateErrs NoFailure s (begin s) :=
      .assign noFailure_nil (.refl _ s) rfl id fun _ => rfl
    refine hbegin.proceeds (List.nil_subset _) (List.nil_subset _) ?_
    refine (gap_proceeds rfl).bind (v := []) (List.nil_subset _) (List.nil_subset _) fun _ t _ => ?_
    split
    · exact ⟨by decide, .assign noBusAfterFailure_nil
        (fun f => by cases f <;> simp [Field.Same]) rfl id id⟩
    · exact .assign noFailure_nil (fun f => by cases f <;> simp [Field.Same, storeResult]) rfl id id

end

end Sys2Proof.Machine
end

section
/-! SUPPORT. What the load, the loading commands and a STEP can do, under any inputs and any answers, as stretches of an
operation (R77 to R80, R84, R125 to R132). -/
namespace Sys2Proof.Machine

/-! ### Ends of a flow -/

theorem Flow.Ends.and {α : Type} {V V' : α → State → Prop} {E E' : Err → State → Prop} {R R' : State → Prop}
    {N N' : Prop} {x : Flow α} (h : x.Ends V E R N) (h' : x.Ends V' E' R' N') :
    x.Ends (fun a s => V a s ∧ V' a s) (fun e s => E e s ∧ E' e s) (fun s => R s ∧ R' s) (N ∧ N') := by
  cases x <;> exact ⟨h, h'⟩

theorem Flow.ends_true {α : Type} (x : Flow α) :
    x.Ends (fun _ _ => True) (fun _ _ => True) (fun _ => True) True := by
  cases x <;> trivial

/-- How an operation that answers a next state ended. -/
theorem outcome_cases {V : Unit → State → Prop} {E : Err → State → Prop} {R : State → Prop}
    {close : Flow Unit → State} {s t : State} {x : Flow Unit} (h : outcome close s x = .next t)
    (hx : x.Ends V E R (RefusalToCome s)) :
    (∃ u, V () u ∧ t = close (.val () u)) ∨ (∃ c u, E c u ∧ t = close (.err c u))
      ∨ (∃ u, R u ∧ t = close (.rst u)) := by
  obtain ⟨rfl, hends⟩ := outcome_next h hx
  cases x with
  | val a u => exact .inl ⟨u, hends, rfl⟩
  | err c u => exact .inr (.inl ⟨c, u, hends, rfl⟩)
  | rst u => exact .inr (.inr ⟨u, hends, rfl⟩)
  | ref u => exact hends.elim

/-- Without a reset and a refused access to come an operation answers a next state, and was not abandoned. -/
theorem outcome_goesOn {V : Unit → State → Prop} {E : Err → State → Prop} {s : State} {x : Flow Unit}
    (hr : NoReset s) (ha : Admitted s) (close : Flow Unit → State)
    (hx : x.Ends V E (ResetAway NoBusAfterFailure s) (RefusalToCome s)) :
    (∃ u, outcome close s x = .next (close (.val () u)) ∧ V () u)
      ∨ (∃ c u, outcome close s x = .next (close (.err c u)) ∧ E c u) := by
  rw [outcome_admitted ha]
  obtain ⟨_, u, rfl, hu⟩ | ⟨c, u, rfl, hu⟩ := hx.goesOn hr ha (fun _ h => h.1) id
  · exact .inl ⟨u, rfl, hu⟩
  · exact .inr ⟨c, u, rfl, hu⟩

section
variable {k : BitVec 8} {s t u : State}

/-! ### The load (R77 to R80) -/

theorem Reading.later (h : Reading s t) : Later [.calShadow] k NoFailure s t where
  changes f := by rw [h.same]; cases f <;> simp [Field.Same, busyChange]
  mode := h.mode_eq
  waitDone hs := by rw [h.same]; exact hs
  eoc := h.eoc
  errKept := h.errKept
  errNew := h.errNew.of_busy
  inputs := h.inputs
  busy := h.busy
  events := by
    obtain ⟨es, hes, hrd⟩ := h.events
    refine ⟨es, hes, fun e he => ?_⟩
    obtain ⟨r, b, rfl⟩ := hrd e he
    rfl

theorem ReadingFailed.later (h : ReadingFailed s t) : Later [.calShadow] k NoBusAfterFailure s t := by
  obtain ⟨u, r, hu, ht⟩ := h.reading
  rw [ht]
  exact hu.later.trans (.of_assignment rfl (noBusAfterFailure_singleton _) (.refl _ u) rfl id id)
    fun _ _ => NoFailure.append_noBusAfterFailure

theorem LoadAbandoned.resetAway (h : LoadAbandoned s t) : ResetAway NoBusAfterFailure s t := by
  obtain ⟨u, ht, hu, hr⟩ := h
  exact ⟨hr, _, ht, (hu.later (k := 0)).events.mono fun _ => NoFailure.noBusAfterFailure⟩

theorem begin_later {w : List Field} {P : List Event → Prop} (hP : P []) (s : State) : Later w k P s (begin s) :=
  .assign hP (.refl w s) rfl id fun _ => rfl

/-- `t` is the state `s` with the coefficients loaded, by this load or one before it. -/
def Loaded (k : BitVec 8) (s t : State) : Prop :=
  (s.calValid = true ∧ t = s)
    ∨ (s.calValid = false ∧ t.calValid = true ∧ Later [.calShadow, .cal, .calValid] k NoFailure s t)

theorem Loaded.later (h : Loaded k s t) : Later [.calShadow, .cal, .calValid] k NoFailure s t := by
  obtain ⟨-, rfl⟩ | ⟨-, -, h⟩ := h
  · exact (Interleaved.refl t).later noFailure_nil
  · exact h

theorem Loaded.calValid (h : Loaded k s t) : t.calValid = true := by
  obtain ⟨hv, rfl⟩ | ⟨-, hv, -⟩ := h <;> exact hv

theorem Loaded.eq_of_calValid (h : Loaded k s t) (hv : s.calValid = true) : t = s := by
  obtain ⟨-, rfl⟩ | ⟨hv', -, -⟩ := h
  · rfl
  · exact absurd hv (by simp [hv'])

theorem load_proceeds (hk : errMask .comm &&& ~~~k = 0#8) (s : State) :
    (load s).Ends (fun _ t => Loaded k s t)
      (fun c t => errMask c &&& ~~~k = 0#8 ∧ Later [.calShadow] k NoBusAfterFailure s t) (ResetAway NoBusAfterFailure s)
      (RefusalToCome s) := by
  refine (load_ends s).mono (fun _ t h => ?_) (fun c t h => ?_) (fun t h => ?_) id
  · obtain h | ⟨hv, u, hu, rfl⟩ := h
    · exact .inl h
    · refine .inr ⟨hv, rfl, ?_⟩
      refine ((begin_later noFailure_nil s).trans (hu.later.mono (by simp) fun _ => id) fun _ _ => NoFailure.append).trans
        (.assign noFailure_nil (fun f => ?_) rfl id id) fun _ _ => NoFailure.append
      cases f <;> simp [Field.Same]
  · obtain ⟨-, rfl, u, hu, rfl⟩ := h
    refine ⟨hk, ((begin_later noFailure_nil s).trans hu.later fun _ _ => NoFailure.append_noBusAfterFailure).trans
      (.assign noBus_nil (fun f => ?_) rfl id id) fun _ _ => NoBusAfterFailure.append_noBus⟩
    cases f <;> simp [Field.Same]
  · exact (begin_later (w := []) (k := k) noFailure_nil s).resetAway (LoadAbandoned.resetAway h.2)
      fun _ _ => NoFailure.append_noBusAfterFailure

/-! ### The loading commands (R76, R84, R125) -/

/-- The mask of the errors that INIT_SYNC and INIT_ASYNC can end with: COMM and MODE. -/
def initErrs : BitVec 8 := 0x03#8

theorem initSync_proceeds (s : State) :
    (initSync s).Ends (fun _ t => s.mode ≠ modeAsync ∧ ∃ u, Loaded initErrs s u ∧ t = { u with mode := modeSync })
      (fun c t => errMask c &&& ~~~initErrs = 0#8 ∧ Later [.calShadow] initErrs NoBusAfterFailure s t)
      (ResetAway NoBusAfterFailure s) (RefusalToCome s) := by
  unfold initSync
  split_ifs with hm
  · exact ⟨by decide, (Interleaved.refl s).later noBusAfterFailure_nil⟩
  · exact (load_proceeds (by decide) s).bind fun _ u hu => ⟨hm, u, hu, rfl⟩

/-- `t` is a later state of INIT_ASYNC, the coefficients loaded and async mode chosen (R125). -/
def AsyncEntered (P : List Event → Prop) (s t : State) : Prop :=
  s.mode ≠ modeSync ∧ ∃ u, Loaded initErrs s u ∧ Later [] initErrs P (enterAsync u) t

/-- Choosing async mode adds no event. -/
theorem AsyncEntered.events {P Q : List Event → Prop} (h : AsyncEntered P s t)
    (hPQ : ∀ es fs, NoFailure es → P fs → Q (es ++ fs)) : AddsEvents Q s t := by
  obtain ⟨-, u, hu, ht⟩ := h
  exact hu.later.events.trans (t := enterAsync u) ht.events hPQ

theorem initAsync_proceeds (s : State) :
    (initAsync s).Ends (fun _ t => AsyncEntered NoFailure s t)
      (fun c t => errMask c &&& ~~~initErrs = 0#8 ∧ Later [.calShadow] initErrs NoBusAfterFailure s t
        ∨ c = .comm ∧ AsyncEntered NoBusAfterFailure s t) (ResetAway NoBusAfterFailure s) (RefusalToCome s) := by
  unfold initAsync
  split_ifs with hm
  · exact .inl ⟨by decide, (Interleaved.refl s).later noBusAfterFailure_nil⟩
  · refine ((load_proceeds (by decide) s).mono (fun _ _ h => h) (fun _ _ h => .inl h) (fun _ h => h) id).bind
      fun _ u hu => ?_
    have hcomm : (startConversion u.cfg.cmdTemp (enterAsync u)).Ends (fun _ _ => True) (fun c _ => c = .comm)
        (fun _ => True) True :=
      startConversion_ends.mono (fun _ _ _ => trivial) (fun _ _ h => h.1) (fun _ _ => trivial) fun _ => trivial
    refine ((startConversion_proceeds (by decide) u.cfg.cmdTemp (enterAsync u)).and hcomm).mono
      (fun _ t ht => ⟨hm, u, hu, ht.1⟩) (fun c t ht => .inr ⟨ht.2, hm, u, hu, ht.1.2⟩) (fun t ht => ?_) fun h =>
        hu.later.refusalToCome h.1
    obtain ⟨hr, v, rfl, hv⟩ := ht.1
    exact ⟨hu.later.resetToCome hr, v, rfl, hu.later.events.trans (t := enterAsync u) hv
      fun _ _ => NoFailure.append_noBusAfterFailure⟩

/-! ### A STEP (R126 to R132) -/

/-- The mask of the ERR bits that a STEP sets of its own: COMM, DIV0 and STATE. -/
def stepErrs : BitVec 8 := 0x89#8

/-- The registers that the temperature stage writes. -/
def temperatureRegs : List Field := [.utBuf, .astate]

/-- The registers that the pressure stage writes. -/
def pressureRegs : List Field := [.utReg, .upReg, .tReg, .pReg, .resValid, .astate]

theorem comm_in_stepErrs : errMask .comm &&& ~~~stepErrs = 0#8 := by decide

theorem astate_later {w : List Field} {P : List Event → Prop} (hP : P []) (hw : .astate ∈ w) (v : BitVec 2)
    (s : State) : Later w k P s { s with astate := v } :=
  .assign hP (fun f => by
    cases f with
    | astate => exact .inl hw
    | _ => exact .inr rfl) rfl id id

theorem stageTemperature_proceeds (hb : busy s = true) :
    (stageTemperature s).Proceeds temperatureRegs temperatureRegs stepErrs s := by
  have hk := comm_in_stepErrs
  have hself := List.Subset.refl temperatureRegs
  refine (readByte_proceeds hk _ hb).bind hself hself fun msb s1 h1 => ?_
  refine (readByte_proceeds hk _ (h1.busy hb)).bind hself hself fun lsb s2 _ => ?_
  have hbuf : Later temperatureRegs stepErrs NoFailure s2 { s2 with utBuf := half msb lsb } :=
    .assign noFailure_nil (fun f => by cases f <;> simp [Field.Same, temperatureRegs]) rfl id id
  refine hbuf.proceeds hself hself ((startConversion_proceeds hk _ _).bind hself hself fun _ s4 _ => ?_)
  exact astate_later noFailure_nil (by simp [temperatureRegs]) _ s4

theorem deliver_proceeds {ut : Half} {up : Word} {r : Word × Word} (hb : busy s = true) :
    (deliver ut up r s).Proceeds pressureRegs pressureRegs stepErrs s := by
  have hself := List.Subset.refl pressureRegs
  have hstore : Later pressureRegs stepErrs NoFailure s (storeResult r s) :=
    .assign noFailure_nil (fun f => by cases f <;> simp [Field.Same, pressureRegs]) rfl id id
  have hb0 : busy (storeResult r s) = true := hb
  refine hstore.proceeds hself hself ((emitIf_proceeds rfl hb0).bind hself hself fun _ s1 h1 => ?_)
  have hb1 := h1.busy hb0
  exact (emitIf_proceeds rfl hb1).bind hself hself fun _ s2 h2 => emitIf_proceeds rfl (h2.busy hb1)

theorem stageCompensate_proceeds {up : Word} {o : BitVec 2} (hb : busy s = true) :
    (stageCompensate up o s).Proceeds pressureRegs pressureRegs stepErrs s := by
  have hself := List.Subset.refl pressureRegs
  have hstore : Later pressureRegs stepErrs NoFailure s { s with utReg := s.utBuf, upReg := up } :=
    .assign noFailure_nil (fun f => by cases f <;> simp [Field.Same, pressureRegs]) rfl id id
  have hb0 : busy { s with utReg := s.utBuf, upReg := up } = true := hb
  refine hstore.proceeds hself hself ((gap_proceeds hb0).bind hself hself fun _ s1 h1 => ?_)
  split
  · have hclear : Later pressureRegs stepErrs NoFailure (setErr (errMask .div0) s1) (stepDiv0 s1) :=
      .assign noFailure_nil (fun f => by cases f <;> simp [Field.Same, pressureRegs]) rfl id id
    exact (Later.setErr (by decide) noFailure_nil s1).trans hclear fun _ _ => NoFailure.append
  · exact deliver_proceeds (h1.busy hb0)

theorem stagePressure_proceeds (hb : busy s = true) :
    (stagePressure s).Proceeds pressureRegs pressureRegs stepErrs s := by
  have hk := comm_in_stepErrs
  have hself := List.Subset.refl pressureRegs
  refine (readByte_proceeds hk _ hb).bind hself hself fun msb s1 h1 => ?_
  have hb1 := h1.busy hb
  refine (readByte_proceeds hk _ hb1).bind hself hself fun lsb s2 h2 => ?_
  have hb2 := h2.busy hb1
  refine (readByte_proceeds hk _ hb2).bind hself hself fun xlsb s3 h3 => ?_
  refine (stageCompensate_proceeds (h3.busy hb2)).bind hself hself fun _ s4 _ => ?_
  refine (startConversion_proceeds hk _ _).bind hself hself fun _ s5 _ => ?_
  exact astate_later noFailure_nil (by simp [pressureRegs]) _ s5

/-- ASTATE is one of its two states (R24). -/
def AstateLegal (s : State) : Prop := s.astate = awaitingTemperature ∨ s.astate = awaitingPressure

/-- The flow runs a STEP from `s` to its end, whatever fails, with the registers `w` written at most. -/
def Flow.Finishes (w : List Field) (s : State) (x : Flow Unit) : Prop :=
  x.Ends (fun _ t => Later w stepErrs NoBusAfterFailure s t ∧ AstateLegal t) (fun _ _ => False)
    (ResetAway NoBusAfterFailure s) (RefusalToCome s)

/-- What ends a STEP after a failed transaction makes none itself. -/
theorem Later.finishes_of_noBus {w : List Field} {x : Flow Unit} (h : Later w stepErrs NoBusAfterFailure s t)
    (hx : x.Ends (fun _ u => Later w stepErrs NoBus t u ∧ AstateLegal u) (fun _ _ => False) (ResetAway NoBus t)
      (RefusalToCome t)) : x.Finishes w s :=
  Flow.Ends.mono hx (fun _ _ hu => ⟨h.trans hu.1 fun _ _ => NoBusAfterFailure.append_noBus, hu.2⟩) (fun _ _ h => h)
    (fun _ hu => h.resetAway hu fun _ _ => NoBusAfterFailure.append_noBus) h.refusalToCome

theorem diag_later {w : List Field} {k : BitVec 8} {kind : DiagKind} {v : Byte} (hb : busy s = true) :
    (diag kind v s).Ends (fun _ t => Later w k NoBus s t) (fun _ _ => False) (ResetAway NoBus s) (RefusalToCome s) :=
  emit_later noBus_nil (noBus_singleton rfl) hb

/-- The end of a stage with a failed transaction (R131). -/
theorem stepCommFail_finishes {w : List Field} (hw : .astate ∈ w) (h : Later w stepErrs NoBusAfterFailure s t)
    (hb : busy t = true) : (stepCommFail t).Finishes w s := by
  have hset : Later w stepErrs NoBusAfterFailure s (setErr (errMask .comm) t) :=
    h.trans (.setErr comm_in_stepErrs noBus_nil t) fun _ _ => NoBusAfterFailure.append_noBus
  have hbset : busy (setErr (errMask .comm) t) = true := hb
  refine hset.finishes_of_noBus ((diag_later (w := w) (k := stepErrs) hbset).bind fun _ u hu => ⟨?_, .inl rfl⟩)
  exact hu.trans (astate_later noBus_nil hw _ u) fun _ _ => NoBus.append

/-- The end of StageInvalid with a failed start command (R130). -/
theorem invalidCommFail_finishes {w : List Field} (hw : .astate ∈ w) (h : Later w stepErrs NoBusAfterFailure s t)
    (hb : busy t = true) : (invalidCommFail t).Finishes w s := by
  have hset : Later w stepErrs NoBusAfterFailure s (setErr (errMask .comm) { t with astate := awaitingTemperature }) :=
    h.trans ((astate_later noBus_nil hw _ t).trans (.setErr comm_in_stepErrs noBus_nil _) fun _ _ => NoBus.append)
      fun _ _ => NoBusAfterFailure.append_noBus
  have hbset : busy (setErr (errMask .comm) { t with astate := awaitingTemperature }) = true := hb
  refine hset.finishes_of_noBus ((diag_later (w := []) (k := stepErrs) hbset).mono (fun _ u hu => ⟨?_, .inl ?_⟩)
    (fun _ _ h => h) (fun _ h => h) id)
  · exact hu.mono (List.nil_subset w) fun _ => id
  · exact (hu.changes .astate).resolve_left List.not_mem_nil

theorem stageTemperature_astate (s : State) :
    (stageTemperature s).Ends (fun _ t => AstateLegal t) (fun _ _ => True) (fun _ => True) True :=
  (Flow.ends_true _).bind fun _ _ _ => (Flow.ends_true _).bind fun _ _ _ =>
    (Flow.ends_true _).bind fun _ _ _ => .inr rfl

theorem stagePressure_astate (s : State) :
    (stagePressure s).Ends (fun _ t => AstateLegal t) (fun _ _ => True) (fun _ => True) True :=
  (Flow.ends_true _).bind fun _ _ _ => (Flow.ends_true _).bind fun _ _ _ => (Flow.ends_true _).bind fun _ _ _ =>
    (Flow.ends_true _).bind fun _ _ _ => (Flow.ends_true _).bind fun _ _ _ => .inl rfl

/-- A stage that goes on to its end, or fails and recovers (R127, R131). -/
theorem Flow.Proceeds.finishes {w : List Field} {x : Flow Unit} {f : State → Flow Unit}
    (hx : x.Proceeds w w stepErrs s)
    (hast : x.Ends (fun _ t => AstateLegal t) (fun _ _ => True) (fun _ => True) True)
    (hf : ∀ t, Later w stepErrs NoBusAfterFailure s t → (f t).Finishes w s) : (x.recover f).Finishes w s :=
  ((Flow.Ends.and hx hast).mono
    (fun _ _ h => ⟨h.1.mono (List.Subset.refl w) fun _ => NoFailure.noBusAfterFailure, h.2⟩)
    (fun _ _ h => h.1.2) (fun _ h => h.1) And.left).recover fun _ t ht => hf t ht

/-- The start command of StageInvalid, and what ends the stage if it fails (R130). -/
theorem invalidStart_finishes (b : Byte) (hb : busy s = true) :
    (((startConversion b s).bind fun _ s2 => .val () { s2 with astate := awaitingTemperature }).recover
      invalidCommFail).Finishes [.astate] s := by
  have hself := List.Subset.refl [Field.astate]
  exact Flow.Proceeds.finishes ((startConversion_proceeds comm_in_stepErrs _ _).bind hself hself fun _ s2 _ =>
    astate_later noFailure_nil (.head _) _ s2) ((Flow.ends_true _).bind fun _ _ _ => .inl rfl)
    fun t ht => invalidCommFail_finishes (.head _) ht (ht.busy hb)

theorem stageInvalid_finishes (hb : busy s = true) : (stageInvalid s).Finishes [.astate] s := by
  have hdiag := diag_later (w := [.astate]) (k := stepErrs) (kind := .invalidState) (v := s.astate.setWidth 8) hb
  refine (hdiag.mono (fun _ _ h => h) (fun _ _ h => h.elim) (fun _ ⟨hr, u, ht, hu⟩ =>
    ⟨hr, u, ht, hu.mono fun _ h => h.noFailure.noBusAfterFailure⟩) id).bind fun _ s1 h1 => ?_
  have hset : Later [.astate] stepErrs NoBus s (setErr stateMask s1) :=
    h1.trans (.setErr (by decide) noBus_nil s1) fun _ _ => NoBus.append
  have hnone {es fs : List Event} (h : NoBus es) : NoBusAfterFailure fs → NoBusAfterFailure (es ++ fs) :=
    h.noFailure.append_noBusAfterFailure
  exact Flow.Ends.mono (invalidStart_finishes s1.cfg.cmdTemp (s := setErr stateMask s1) (h1.busy hb))
    (fun _ _ hu => ⟨hset.trans hu.1 fun _ _ => hnone, hu.2⟩) (fun _ _ h => h)
    (fun _ hu => hset.resetAway hu fun _ _ => hnone) hset.refusalToCome

/-- The registers that a STEP from `s` may write, by its stage. -/
def stepRegs (s : State) : List Field :=
  if s.astate = awaitingTemperature then temperatureRegs
  else if s.astate = awaitingPressure then pressureRegs
  else [.astate]

theorem stepStage_finishes (hb : busy s = true) : (stepStage s).Finishes (stepRegs s) s := by
  unfold stepStage stepRegs
  split_ifs
  · exact (stageTemperature_proceeds hb).finishes (stageTemperature_astate s) fun t ht =>
      stepCommFail_finishes (by simp [temperatureRegs]) ht (ht.busy hb)
  · exact (stagePressure_proceeds hb).finishes (stagePressure_astate s) fun t ht =>
      stepCommFail_finishes (by simp [pressureRegs]) ht (ht.busy hb)
  · exact stageInvalid_finishes hb

/-- A STEP, from the state in which it is owed no longer (R126). -/
theorem stepStage_startStep_finishes (s : State) :
    (stepStage (startStep s)).Finishes (stepRegs s) { s with eocPend := false } := by
  have hbegin : Later (stepRegs s) stepErrs NoFailure { s with eocPend := false } (startStep s) :=
    begin_later noFailure_nil _
  exact Flow.Ends.mono (stepStage_finishes (s := startStep s) rfl)
    (fun _ _ h => ⟨hbegin.trans h.1 fun _ _ => NoFailure.append_noBusAfterFailure, h.2⟩) (fun _ _ h => h)
    (fun _ h => hbegin.resetAway h fun _ _ => NoFailure.append_noBusAfterFailure) hbegin.refusalToCome

/-- `t` is the state after a STEP from `s` (R127). -/
def Stepped (s t : State) : Prop :=
  ∃ u, Later (stepRegs s) stepErrs NoBusAfterFailure { s with eocPend := false } u ∧ AstateLegal u
    ∧ t = { u with seq := .idle }

theorem asyncStep_outcome (h : asyncStep s = .next t) : ResetAway NoBusAfterFailure s t ∨ Stepped s t := by
  obtain ⟨u, hu, rfl⟩ | ⟨_, _, hno, -⟩ | ⟨u, hu, rfl⟩ :=
    outcome_cases (s := startStep s) h (stepStage_startStep_finishes s)
  · exact .inr ⟨u, hu.1, hu.2, rfl⟩
  · exact hno.elim
  · exact .inl hu

theorem asyncStep_goesOn (hr : NoReset s) (ha : Admitted s) : ∃ t, asyncStep s = .next t ∧ Stepped s t := by
  obtain ⟨u, hstep, hu⟩ | ⟨_, _, -, hno⟩ :=
    outcome_goesOn (s := startStep s) hr ha endStep (stepStage_startStep_finishes s)
  · exact ⟨_, hstep, u, hu.1, hu.2, rfl⟩
  · exact hno.elim

end

end Sys2Proof.Machine
end

section
/-! SUPPORT, and the obligations settled with it: what every step keeps, whatever the inputs and the answers. It only adds
events (R58, R146); without a reset it keeps the coefficients once loaded (R81), a mode once chosen (R22) and the bits of
ERR (R35, R156); and it keeps the machine invariant. -/
namespace Sys2Proof.Machine

/-! ### What stays without a reset -/

/-- From `s` to `t` loaded coefficients, a chosen mode and the bits of ERR have stayed. -/
structure Sticky (s t : State) : Prop where
  cal : s.calValid = true → t.cal = s.cal ∧ t.calValid = true
  mode : s.mode = modeSync ∨ s.mode = modeAsync → t.mode = s.mode
  err : NoErrWrite s → s.err &&& t.err = s.err
  noErrWrite : NoErrWrite s → NoErrWrite t

section
variable {w : List Field} {k : BitVec 8} {P : List Event → Prop} {s t u : State}

theorem Sticky.of_eq (ht : t = { t with
    cal := s.cal, calValid := s.calValid, mode := s.mode, err := s.err, inputs := s.inputs }) : Sticky s t := by
  rw [ht]
  exact ⟨fun hv => ⟨rfl, hv⟩, fun _ => rfl, fun _ => BitVec.and_self, id⟩

theorem Sticky.trans (h1 : Sticky s t) (h2 : Sticky t u) : Sticky s u where
  cal hv := by
    obtain ⟨hcal, hv1⟩ := h1.cal hv
    obtain ⟨hcal2, hv2⟩ := h2.cal hv1
    exact ⟨hcal2.trans hcal, hv2⟩
  mode hm := by
    have hm1 := h1.mode hm
    exact (h2.mode (hm1 ▸ hm)).trans hm1
  err hw := and_eq_self_trans (h1.err hw) (h2.err (h1.noErrWrite hw))
  noErrWrite hw := h2.noErrWrite (h1.noErrWrite hw)

theorem sticky_raise (e : Err) (s : State) : Sticky s (raise e s) where
  cal hv := ⟨rfl, hv⟩
  mode _ := rfl
  err _ := and_or_cancel _ _
  noErrWrite := id

theorem Later.sticky (h : Later w k P s t) (hcal : .cal ∉ w) (hv : .calValid ∉ w) : Sticky s t where
  cal hs := ⟨(h.changes .cal).resolve_left hcal, Eq.trans ((h.changes .calValid).resolve_left hv) hs⟩
  mode _ := h.mode
  err := h.errKept
  noErrWrite := h.noErrWrite

theorem Loaded.sticky (h : Loaded k s t) : Sticky s t where
  cal hv := by rw [h.eq_of_calValid hv]; exact ⟨rfl, hv⟩
  mode _ := h.later.mode
  err := h.later.errKept
  noErrWrite := h.later.noErrWrite

theorem AsyncEntered.sticky (h : AsyncEntered P s t) : Sticky s t := by
  obtain ⟨hm, u, hu, ht⟩ := h
  have henter : Sticky u (enterAsync u) :=
    ⟨fun hv => ⟨rfl, hv⟩, fun hm' => (hm'.resolve_left (hu.later.mode ▸ hm)).symm, fun _ => BitVec.and_self, id⟩
  exact hu.sticky.trans (henter.trans (ht.sticky List.not_mem_nil List.not_mem_nil))

/-! ### Orderly operations -/

/-- From `s` to `t` events were added, no transaction among them after a failed one, and without a reset to come what is
sticky has stayed. -/
def Orderly (s t : State) : Prop := AddsEvents NoBusAfterFailure s t ∧ (NoReset s → Sticky s t)

theorem ResetAway.orderly (h : ResetAway NoBusAfterFailure s t) : Orderly s t := by
  obtain ⟨hr, u, rfl, hu⟩ := h
  exact ⟨hu, fun hno => (hno.none hr).elim⟩

/-- The end of an operation adds no event. -/
theorem Orderly.of_end (hev : AddsEvents NoBusAfterFailure s u) (hs : Sticky s u) (ht : Sticky u t)
    (hh : t.history = u.history) : Orderly s t :=
  ⟨by rwa [AddsEvents, hh], fun _ => hs.trans ht⟩

theorem Orderly.finishOk (hev : AddsEvents NoFailure s u) (hs : Sticky s u) : Orderly s (finishOk u) :=
  .of_end (hev.mono fun _ => NoFailure.noBusAfterFailure) hs (.of_eq rfl) rfl

theorem Orderly.raise (hev : AddsEvents NoBusAfterFailure s u) (hs : Sticky s u) (c : Err) : Orderly s (raise c u) :=
  .of_end hev hs (sticky_raise c u) rfl

/-- A change of no register that is sticky, and with no event. -/
theorem Orderly.of_eq (ht : t = { t with
    cal := s.cal, calValid := s.calValid, mode := s.mode, err := s.err, inputs := s.inputs, history := s.history }) :
    Orderly s t :=
  ⟨.of_history_eq (by rw [ht]) noBusAfterFailure_nil, fun _ => .of_eq (by rw [ht])⟩

theorem orderly_raise (c : Err) (s : State) : Orderly s (raise c s) :=
  .raise (.of_history_eq rfl noBusAfterFailure_nil) (.of_eq rfl) c

/-- A command whose flow only writes registers other than CAL and CAL_VALID. -/
theorem Flow.Proceeds.orderly {e : List Field} {x : Flow Unit} (hx : x.Proceeds e w k s)
    (h : outcome conclude s x = .next t) (he : .cal ∉ e ∧ .calValid ∉ e) (hw : .cal ∉ w ∧ .calValid ∉ w) :
    Orderly s t := by
  obtain ⟨u, hu, rfl⟩ | ⟨c, u, ⟨-, hu⟩, rfl⟩ | ⟨u, hu, rfl⟩ := outcome_cases h hx
  · exact .finishOk hu.events (hu.sticky hw.1 hw.2)
  · exact .raise hu.events (hu.sticky he.1 he.2) c
  · exact hu.orderly

theorem loadCal_orderly (h : exec .loadCal s = .next t) : Orderly s t := by
  obtain ⟨u, hu, rfl⟩ | ⟨c, u, ⟨-, hu⟩, rfl⟩ | ⟨u, hu, rfl⟩ :=
    outcome_cases h (load_proceeds (k := errMask .comm) (by decide) s)
  · exact .finishOk hu.later.events hu.sticky
  · exact .raise hu.events (hu.sticky (by simp) (by simp)) c
  · exact hu.orderly

theorem initSync_orderly (h : exec .initSync s = .next t) : Orderly s t := by
  obtain ⟨u, ⟨hm, v, hv, rfl⟩, rfl⟩ | ⟨c, u, ⟨-, hu⟩, rfl⟩ | ⟨u, hu, rfl⟩ :=
    outcome_cases h (initSync_proceeds s)
  · have hmode : Sticky v { v with mode := modeSync } :=
      ⟨fun hv => ⟨rfl, hv⟩, fun hm' => (hm'.resolve_right (hv.later.mode ▸ hm)).symm, fun _ => BitVec.and_self, id⟩
    exact .finishOk hv.later.events (hv.sticky.trans hmode)
  · exact .raise hu.events (hu.sticky (by simp) (by simp)) c
  · exact hu.orderly

theorem initAsync_orderly (h : exec .initAsync s = .next t) : Orderly s t := by
  obtain ⟨u, hu, rfl⟩ | ⟨c, u, ⟨-, hu⟩ | ⟨-, hu⟩, rfl⟩ | ⟨u, hu, rfl⟩ :=
    outcome_cases h (initAsync_proceeds s)
  · exact .finishOk (hu.events fun _ _ => NoFailure.append) hu.sticky
  · exact .raise hu.events (hu.sticky (by simp) (by simp)) c
  · exact .raise (hu.events fun _ _ => NoFailure.append_noBusAfterFailure) hu.sticky c
  · exact hu.orderly

theorem exec_orderly {i : Instr} (h : exec i s = .next t) : Orderly s t := by
  cases i with
  | nop => cases h; exact .of_eq rfl
  | loadCal => exact loadCal_orderly h
  | initSync => exact initSync_orderly h
  | initAsync => exact initAsync_orderly h
  | readUt => exact (readUt_proceeds s).orderly h (by simp) (by simp)
  | readUp => exact (readUp_proceeds s).orderly h (by simp) (by simp)
  | compensate => exact (compensate_proceeds s).orderly h (by simp) (by simp)
  | setOss o =>
    cases h
    split_ifs
    · exact orderly_raise _ s
    · exact .of_eq rfl
  | setCb m => cases h; exact .of_eq rfl
  | step =>
    cases h
    split_ifs
    · exact orderly_raise _ s
    · exact .of_eq rfl
  | cmdTemp =>
    obtain ⟨ok, as, hnext⟩ := exec_cmdTemp_next s
    rw [hnext] at h
    cases h
    exact ⟨⟨_, rfl, noBusAfterFailure_singleton _⟩, fun _ => .of_eq rfl⟩
  | cmdPres o =>
    obtain ⟨ok, as, hnext⟩ := exec_cmdPres_next o s
    rw [hnext] at h
    cases h
    exact ⟨⟨_, rfl, noBusAfterFailure_singleton _⟩, fun _ => .of_eq rfl⟩

theorem cal_not_mem_stepRegs (s : State) : .cal ∉ stepRegs s ∧ .calValid ∉ stepRegs s ∧ .cfg ∉ stepRegs s := by
  unfold stepRegs temperatureRegs pressureRegs
  split_ifs <;> simp

theorem lastResult_not_mem_stepRegs (s : State) : .lastResult ∉ stepRegs s := by
  unfold stepRegs temperatureRegs pressureRegs
  split_ifs <;> simp

theorem asyncStep_orderly (h : asyncStep s = .next t) : Orderly s t := by
  obtain hu | ⟨u, hu, -, rfl⟩ := asyncStep_outcome h
  · exact hu.orderly
  · obtain ⟨hcal, hv, -⟩ := cal_not_mem_stepRegs s
    have hs : Sticky s { s with eocPend := false } := .of_eq rfl
    exact .of_end (u := u) hu.events (hs.trans (hu.sticky hcal hv)) (.of_eq rfl) rfl

/-! ### A cycle between operations -/

theorem hostAccess_sticky_fields (a : HostAccess) (s : State) :
    hostAccess a s = { hostAccess a s with
      cfg := s.cfg, cal := s.cal, calValid := s.calValid, seq := s.seq, waitCnt := s.waitCnt, mode := s.mode,
      astate := s.astate, eocPend := s.eocPend, resValid := s.resValid, lastResult := s.lastResult,
      history := s.history, inputs := s.inputs } := by
  cases a with
  | idle => rfl
  | read off n => rfl
  | write off n w =>
    simp only [hostAccess, writeReg]
    repeat' split
    all_goals rfl

/-- A host access clears no ERR bit unless it writes ERR (R37). -/
theorem hostAccess_err_kept {a : HostAccess} (ha : a.writesErr = false) (s : State) :
    s.err &&& (hostAccess a s).err = s.err := by
  cases a with
  | idle => exact BitVec.and_self
  | read off n => exact BitVec.and_self
  | write off n w =>
    have hoff : off.toNat ≠ 0x08 := fun h => by
      rw [HostAccess.writesErr, BitVec.eq_of_toNat_eq (x := off) (y := offErr) h] at ha
      exact absurd ha (by decide)
    simp only [hostAccess, writeReg]
    repeat' split
    any_goals contradiction
    all_goals simp [rejectBusy, and_or_cancel]

theorem corruptAstate_fields (v : Option (BitVec 2)) (s : State) :
    corruptAstate v s = { s with astate := (corruptAstate v s).astate, history := (corruptAstate v s).history } := by
  unfold corruptAstate
  repeat' split
  all_goals rfl

/-- An upset is one event that is no transaction (R153). -/
theorem corruptAstate_events (v : Option (BitVec 2)) (s : State) : AddsEvents NoBus s (corruptAstate v s) := by
  unfold corruptAstate
  split
  · exact .of_history_eq rfl noBus_nil
  · split_ifs
    · exact ⟨[_], rfl, noBus_singleton rfl⟩
    · exact .of_history_eq rfl noBus_nil

/-- The cycle of a step, and the state with it taken off the inputs. -/
theorem takeCycle_cases {c : Cycle} (h : takeCycle s = (c, t)) :
    (c = quietCycle s.eocPrev ∧ t = s) ∨ (s.inputs = c :: t.inputs ∧ t = { s with inputs := t.inputs }) := by
  unfold takeCycle at h
  split at h
  · cases h
    exact .inl ⟨rfl, rfl⟩
  · cases h
    exact .inr ⟨‹_›, rfl⟩

/-- A property of every cycle to come holds of the cycle of a step and of those after it, if a quiet cycle has it. -/
theorem takeCycle_forall {p : Cycle → Prop} (hq : ∀ e, p (quietCycle e)) {c : Cycle} (h : takeCycle s = (c, t))
    (hp : ∀ d ∈ s.inputs, p d) : p c ∧ ∀ d ∈ t.inputs, p d := by
  obtain ⟨rfl, rfl⟩ | ⟨hin, -⟩ := takeCycle_cases h
  · exact ⟨hq _, hp⟩
  · rw [hin] at hp
    exact ⟨hp c (.head _), fun d hd => hp d (.tail _ hd)⟩

/-- The state of a step after its cycle's upset and edge detector (R149, R150, R153). -/
def sampled (c : Cycle) (s' : State) : State := sampleEoc c.eoc (corruptAstate c.corrupt s')

theorem sampled_fields (c : Cycle) (s' : State) : sampled c s' = { s' with
    astate := (sampled c s').astate, history := (sampled c s').history, eocPend := (sampled c s').eocPend,
    eocPrev := c.eoc } := by
  unfold sampled
  rw [corruptAstate_fields]
  rfl

/-- What the start of a cycle does before its command or STEP: no transaction, and nothing that is sticky is lost. -/
structure Started (s t : State) : Prop where
  events : AddsEvents NoBus s t
  noReset : NoReset s → NoReset t
  sticky : Sticky s t

theorem Started.orderly (h : Started s t) (ht : Orderly t u) : Orderly s u :=
  ⟨h.events.trans ht.1 fun _ _ hes hfs => hes.noFailure.append_noBusAfterFailure hfs,
    fun hr => h.sticky.trans (ht.2 (h.noReset hr))⟩

theorem started_sampled {c : Cycle} {s' : State} (h : takeCycle s = (c, s')) : Started s (sampled c s') := by
  have hinputs : (sampled c s').inputs = s'.inputs := by rw [sampled_fields]
  have hs' : s' = { s with inputs := s'.inputs } := by
    obtain ⟨-, rfl⟩ | ⟨-, h⟩ := takeCycle_cases h
    · rfl
    · exact h
  refine ⟨?_, fun hr => ?_, ⟨fun hv => ?_, fun _ => ?_, fun _ => ?_, fun hw => ?_⟩⟩
  · exact (AddsEvents.of_history_eq (by rw [hs']) noBus_nil).trans
      (corruptAstate_events c.corrupt s') fun _ _ => NoBus.append
  · rw [NoReset, hinputs]
    exact (takeCycle_forall (p := fun d => d.rst = false) (fun _ => rfl) h hr).2
  · rw [sampled_fields, hs']
    exact ⟨rfl, hv⟩
  · rw [sampled_fields, hs']
  · rw [sampled_fields, hs', BitVec.and_self]
  · rw [NoErrWrite, hinputs]
    exact (takeCycle_forall (p := fun d => d.host.writesErr = false) (fun _ => rfl) h hw).2

theorem started_hostAccess {c : Cycle} {s' : State} (h : takeCycle s = (c, s')) :
    Started s (hostAccess c.host (sampled c s')) := by
  obtain ⟨hev, hr, hs⟩ := started_sampled h
  have hfields := hostAccess_sticky_fields c.host (sampled c s')
  have hinputs := hostAccess_inputs c.host (sampled c s')
  refine ⟨?_, fun hno => ?_, ⟨fun hv => ?_, fun hm => ?_, fun hw => ?_, fun hw => ?_⟩⟩
  · rw [AddsEvents, hfields]
    exact hev
  · rw [NoReset, hinputs]
    exact hr hno
  · rw [hfields]
    exact hs.cal hv
  · rw [hfields]
    exact hs.mode hm
  · have hhost := (takeCycle_forall (p := fun d => d.host.writesErr = false) (fun _ => rfl) h hw).1
    exact and_eq_self_trans (hs.err hw) (hostAccess_err_kept hhost _)
  · rw [NoErrWrite, hinputs]
    exact hs.noErrWrite hw

theorem startOwed_orderly {owed : Bool} (h : startOwed owed s = .next t) : Orderly s t := by
  unfold startOwed at h
  split_ifs at h
  · exact asyncStep_orderly h
  · cases h
    exact .of_eq rfl

theorem commandWrite_orderly {owed : Bool} {c : Word} (h : commandWrite owed c s = .next t) : Orderly s t := by
  unfold commandWrite at h
  split_ifs at h
  · cases h
    exact ⟨.of_history_eq rfl noBusAfterFailure_nil, fun _ =>
      ⟨fun hv => ⟨rfl, hv⟩, fun _ => rfl, fun _ => and_or_cancel _ _, id⟩⟩
  · split at h
    · exact exec_orderly h
    · have hbad : Started s (illegalCommand s) :=
        ⟨.of_history_eq rfl noBus_nil, id, sticky_raise _ s⟩
      exact hbad.orderly (startOwed_orderly h)

theorem step_orderly (h : step s = .next t) : Orderly s t := by
  obtain ⟨c, s', htake, hcases⟩ := step_cases h
  obtain ⟨hrst, rfl⟩ | ⟨-, b, i, u, -, -, hexec, rfl⟩ | ⟨-, w, -, hcmd⟩ | ⟨-, -, howed⟩ := hcases
  · refine ⟨.of_history_eq (takeCycle_frame htake).1 noBusAfterFailure_nil, fun hr => ?_⟩
    have hno := (takeCycle_forall (p := fun d => d.rst = false) (fun _ => rfl) htake hr).1
    exact absurd hrst (by simp [hno])
  · obtain ⟨hev, hs⟩ := (started_hostAccess htake).orderly (exec_orderly hexec)
    exact ⟨hev, fun hr => (hs hr).trans (.of_eq rfl)⟩
  · exact (started_sampled htake).orderly (commandWrite_orderly hcmd)
  · exact (started_hostAccess htake).orderly (startOwed_orderly howed)

end

/-- Settles O54: what a step adds before its command or STEP is no transaction, and neither goes on after a failed
one. -/
theorem firstFailureEndsBusActivity : Obligations.FirstFailureEndsBusActivity := fun _ _ h => (step_orderly h).1

/-- Settles O55: a load that finds CAL_VALID = 1 does nothing, and nothing else writes CAL. -/
theorem calibrationReadOnlyOnceLoaded : Obligations.CalibrationReadOnlyOnceLoaded := fun _ _ hr hv h =>
  ((step_orderly h).2 hr).cal hv

/-- Settles O56: INIT_SYNC and INIT_ASYNC refuse in each other's mode, and nothing else writes MODE. -/
theorem modeWrittenOnce : Obligations.ModeWrittenOnce := fun _ _ hr hm h => ((step_orderly h).2 hr).mode hm

/-- Settles O57: an operation only sets ERR bits, and the cycles of it clear them by the host's writes to ERR alone. -/
theorem errBitsAreSticky : Obligations.ErrBitsAreSticky := fun _ _ hr hw h => ((step_orderly h).2 hr).err hw

end Sys2Proof.Machine
end

section
/-! SUPPORT, and the obligations settled with it: the invariant of the machine between steps. -/
namespace Sys2Proof.Machine

/-- Settles O8: each clause is read off `State.reset`. -/
theorem resetMeetsInvariant : Obligations.ResetMeetsInvariant where
  modeLegal := by decide
  resultLegal := by decide
  seqIdle := rfl
  waitIdle := rfl
  modeLoaded h := absurd rfl h
  resultLoaded h := nomatch h
  owedAsync h := nomatch h
  calUnloaded _ := rfl
  astateLegal _ := .inl rfl
  astateAsync _ h := absurd rfl h

section
variable {w : List Field} {k : BitVec 8} {P : List Event → Prop} {s t u : State}

theorem machineInv_doReset (s : State) : MachineInv (doReset s) where
  modeLegal := resetMeetsInvariant.modeLegal
  resultLegal := resetMeetsInvariant.resultLegal
  seqIdle := rfl
  waitIdle := rfl
  modeLoaded := resetMeetsInvariant.modeLoaded
  resultLoaded := resetMeetsInvariant.resultLoaded
  owedAsync := resetMeetsInvariant.owedAsync
  calUnloaded := resetMeetsInvariant.calUnloaded
  astateLegal _ := .inl rfl
  astateAsync _ h := absurd rfl h

theorem ResetAway.machineInv (h : ResetAway P s t) : MachineInv t := by
  obtain ⟨-, u, rfl, -⟩ := h
  exact machineInv_doReset u

/-- The invariant speaks of these registers only. -/
theorem MachineInv.congr (h : MachineInv s) (ht : t = { t with
    cfg := s.cfg, cal := s.cal, calValid := s.calValid, seq := s.seq, waitCnt := s.waitCnt, mode := s.mode,
    astate := s.astate, eocPend := s.eocPend, resValid := s.resValid, lastResult := s.lastResult }) : MachineInv t := by
  rw [ht]
  exact ⟨h.modeLegal, h.resultLegal, h.seqIdle, h.waitIdle, h.modeLoaded, h.resultLoaded, h.owedAsync, h.calUnloaded,
    h.astateLegal, h.astateAsync⟩

/-- An operation in the state `u` meets the invariant but for BUSY and the result that its end writes. -/
def InvInside (u : State) : Prop := MachineInv (finishOk u)

theorem MachineInv.inside (h : MachineInv s) : InvInside s :=
  ⟨h.modeLegal, Nat.zero_le 6, rfl, h.waitIdle, h.modeLoaded, h.resultLoaded, h.owedAsync, h.calUnloaded, h.astateLegal,
    h.astateAsync⟩

/-- An operation ends with one of the results 0 to 6. -/
theorem InvInside.ends (h : InvInside u) {r : BitVec 4} (hr : r.toNat ≤ 6) (e : BitVec 8) :
    MachineInv { u with seq := .idle, lastResult := r, err := e } :=
  ⟨h.modeLegal, hr, rfl, h.waitIdle, h.modeLoaded, h.resultLoaded, h.owedAsync, h.calUnloaded, h.astateLegal,
    h.astateAsync⟩

theorem InvInside.raise (h : InvInside u) (c : Err) : MachineInv (raise c u) := h.ends (by cases c <;> decide) _

/-- Cycles make a STEP owed in async mode only (R149). -/
theorem EocFollows.owed (h : EocFollows s t) (hp : t.eocPend = true) : s.eocPend = true ∨ s.mode = modeAsync := by
  obtain ⟨es, -, -, h3⟩ := h
  rw [h3, Bool.or_eq_true, Bool.and_eq_true, decide_eq_true_eq] at hp
  exact hp.imp id And.left

/-- A stretch that leaves CAL and CAL_VALID, writes RES_VALID only where they are loaded, and leaves ASTATE legal if it
writes it in async mode. -/
theorem InvInside.later (h : InvInside s) (hl : Later w k P s t) (hw : .cal ∉ w ∧ .calValid ∉ w ∧ .cfg ∉ w)
    (hres : .resValid ∉ w ∨ s.calValid = true) (hast : .astate ∉ w ∨ s.mode = modeAsync ∧ AstateLegal t) :
    InvInside t := by
  have hcal : t.cal = s.cal := (hl.changes .cal).resolve_left hw.1
  have hv : t.calValid = s.calValid := (hl.changes .calValid).resolve_left hw.2.1
  have hcfg : t.cfg = s.cfg := (hl.changes .cfg).resolve_left hw.2.2
  have hm := hl.mode
  constructor
  all_goals simp only [finishOk_mode, finishOk_lastResult, finishOk_seq, finishOk_waitCnt, finishOk_calValid,
    finishOk_resValid, finishOk_eocPend, finishOk_cal, finishOk_cfg, finishOk_astate, hcal, hv, hcfg, hm]
  case modeLegal => exact h.modeLegal
  case resultLegal => decide
  case waitIdle => exact hl.waitDone h.waitIdle
  case modeLoaded => exact h.modeLoaded
  case resultLoaded =>
    obtain hno | hv := hres
    · rw [((hl.changes .resValid).resolve_left hno : t.resValid = s.resValid)]
      exact h.resultLoaded
    · exact fun _ => hv
  case owedAsync => exact fun hp => (hl.eoc.owed hp).elim h.owedAsync id
  case calUnloaded => exact h.calUnloaded
  case astateLegal =>
    obtain hno | ⟨-, hlegal⟩ := hast
    · rw [((hl.changes .astate).resolve_left hno : t.astate = s.astate)]
      exact h.astateLegal
    · exact fun _ => hlegal
  case astateAsync =>
    obtain hno | ⟨hasync, -⟩ := hast
    · rw [((hl.changes .astate).resolve_left hno : t.astate = s.astate)]
      exact h.astateAsync
    · exact fun _ _ => hasync

/-! ### The commands and a STEP -/

theorem InvInside.loaded (h : InvInside s) (hl : Loaded k s t) : InvInside t := by
  have hv := hl.calValid
  have hlater := hl.later
  have hcfg : t.cfg = s.cfg := (hlater.changes .cfg).resolve_left (by simp)
  have hast : t.astate = s.astate := (hlater.changes .astate).resolve_left (by simp)
  have hm := hlater.mode
  exact ⟨hm ▸ h.modeLegal, Nat.zero_le 6, rfl, hlater.waitDone h.waitIdle, fun _ => hv, fun _ => hv,
    fun hp => hm ▸ (hlater.eoc.owed hp).elim h.owedAsync id, fun hno => absurd hno (by simp [hv]),
    fun hc => by rw [finishOk_astate, hast]; exact h.astateLegal (hcfg ▸ hc),
    fun hc => by rw [finishOk_astate, finishOk_mode, hast, hm]; exact h.astateAsync (hcfg ▸ hc)⟩

/-- Async mode starts with ASTATE = 00 and no STEP owed (R125). -/
theorem InvInside.enterAsync (h : InvInside s) (hv : s.calValid = true) : InvInside (enterAsync s) :=
  ⟨(by decide : modeAsync ≠ 3#2), Nat.zero_le 6, rfl, h.waitIdle, fun _ => hv, fun _ => hv, fun _ => rfl, h.calUnloaded,
    fun _ => .inl rfl, fun _ _ => rfl⟩

/-- Outside async mode no STEP is owed and ASTATE is 00, so sync mode may be chosen (R84). -/
theorem InvInside.selectSync (h : InvInside s) (hv : s.calValid = true) (hm : s.mode ≠ modeAsync) :
    InvInside { s with mode := modeSync } :=
  ⟨(by decide : modeSync ≠ 3#2), Nat.zero_le 6, rfl, h.waitIdle, fun _ => hv, fun _ => hv,
    fun hp => absurd (h.owedAsync hp) hm,
    h.calUnloaded, h.astateLegal, fun hc hast => absurd (h.astateAsync hc hast) hm⟩

theorem InvInside.asyncEntered (h : InvInside s) (ht : AsyncEntered P s t) : InvInside t := by
  obtain ⟨-, u, hu, ht⟩ := ht
  exact ((h.loaded hu).enterAsync hu.calValid).later ht (by simp) (.inl (by simp)) (.inl (by simp))

/-- A command whose flow writes neither CAL nor ASTATE, and RES_VALID where the coefficients are loaded. -/
theorem Flow.Proceeds.machineInv {e : List Field} {x : Flow Unit} (hx : x.Proceeds e w k s)
    (h : outcome conclude s x = .next t) (hs : InvInside s)
    (he : .cal ∉ e ∧ .calValid ∉ e ∧ .cfg ∉ e) (hw : .cal ∉ w ∧ .calValid ∉ w ∧ .cfg ∉ w)
    (hres : (.resValid ∉ e ∧ .resValid ∉ w) ∨ s.calValid = true) (hast : .astate ∉ e ∧ .astate ∉ w) :
    MachineInv t := by
  obtain ⟨u, hu, rfl⟩ | ⟨c, u, ⟨-, hu⟩, rfl⟩ | ⟨u, hu, rfl⟩ := outcome_cases h hx
  · exact hs.later hu hw (hres.imp_left And.right) (.inl hast.2)
  · exact (hs.later hu he (hres.imp_left And.left) (.inl hast.1)).raise c
  · exact hu.machineInv

theorem loadCal_machineInv (hs : InvInside s) (h : exec .loadCal s = .next t) : MachineInv t := by
  obtain ⟨u, hu, rfl⟩ | ⟨c, u, ⟨-, hu⟩, rfl⟩ | ⟨u, hu, rfl⟩ :=
    outcome_cases h (load_proceeds (k := errMask .comm) (by decide) s)
  · exact hs.loaded hu
  · exact (hs.later hu (by simp) (.inl (by simp)) (.inl (by simp))).raise c
  · exact hu.machineInv

theorem initSync_machineInv (hs : InvInside s) (h : exec .initSync s = .next t) : MachineInv t := by
  obtain ⟨u, ⟨hm, v, hv, rfl⟩, rfl⟩ | ⟨c, u, ⟨-, hu⟩, rfl⟩ | ⟨u, hu, rfl⟩ :=
    outcome_cases h (initSync_proceeds s)
  · exact (hs.loaded hv).selectSync hv.calValid (hv.later.mode ▸ hm)
  · exact (hs.later hu (by simp) (.inl (by simp)) (.inl (by simp))).raise c
  · exact hu.machineInv

theorem initAsync_machineInv (hs : InvInside s) (h : exec .initAsync s = .next t) : MachineInv t := by
  obtain ⟨u, hu, rfl⟩ | ⟨c, u, ⟨-, hu⟩ | ⟨-, hu⟩, rfl⟩ | ⟨u, hu, rfl⟩ :=
    outcome_cases h (initAsync_proceeds s)
  · exact hs.asyncEntered hu
  · exact (hs.later hu (by simp) (.inl (by simp)) (.inl (by simp))).raise c
  · exact (hs.asyncEntered hu).raise c
  · exact hu.machineInv

/-- COMPENSATE sets RES_VALID only where the coefficients are loaded (R96). -/
theorem compensate_machineInv (hs : InvInside s) (h : exec .compensate s = .next t) : MachineInv t := by
  by_cases hv : s.calValid = true
  · exact (compensate_proceeds s).machineInv h hs (by simp) (by simp) (.inr hv) (by simp)
  · rw [exec_compensate_unloaded (by simpa using hv)] at h
    cases h
    exact hs.raise _

theorem exec_machineInv {i : Instr} (hs : MachineInv s) (h : exec i s = .next t) : MachineInv t := by
  have hin := hs.inside
  cases i with
  | nop => cases h; exact hin
  | loadCal => exact loadCal_machineInv hin h
  | initSync => exact initSync_machineInv hin h
  | initAsync => exact initAsync_machineInv hin h
  | readUt => exact (readUt_proceeds s).machineInv h hin (by simp) (by simp) (.inl (by simp)) (by simp)
  | readUp => exact (readUp_proceeds s).machineInv h hin (by simp) (by simp) (.inl (by simp)) (by simp)
  | compensate => exact compensate_machineInv hin h
  | setOss o =>
    cases h
    split_ifs
    · exact hin.raise _
    · exact hin.congr rfl
  | setCb m => cases h; exact hin.congr rfl
  | step =>
    cases h
    split_ifs with hm
    · exact hin.raise _
    · have hm : s.mode = modeAsync := not_not.1 hm
      exact ⟨hin.modeLegal, hin.resultLegal, rfl, hin.waitIdle, hin.modeLoaded, hin.resultLoaded, fun _ => hm,
        hin.calUnloaded, hin.astateLegal, hin.astateAsync⟩
  | cmdTemp =>
    obtain ⟨ok, as, hnext⟩ := exec_cmdTemp_next s
    rw [hnext] at h
    cases h
    exact hs.congr rfl
  | cmdPres o =>
    obtain ⟨ok, as, hnext⟩ := exec_cmdPres_next o s
    rw [hnext] at h
    cases h
    exact hs.congr rfl

/-- A STEP starts in async mode only, so the coefficients are loaded (R126). -/
theorem asyncStep_machineInv (hs : MachineInv s) (hm : s.mode = modeAsync) (h : asyncStep s = .next t) :
    MachineInv t := by
  obtain hu | ⟨u, hu, hlegal, rfl⟩ := asyncStep_outcome h
  · exact hu.machineInv
  · have hv : s.calValid = true := hs.modeLoaded (by rw [hm]; decide)
    have hstart : InvInside { s with eocPend := false } :=
      ⟨hs.modeLegal, Nat.zero_le 6, rfl, hs.waitIdle, hs.modeLoaded, hs.resultLoaded, fun hp => (nomatch hp),
        hs.calUnloaded, hs.astateLegal, hs.astateAsync⟩
    obtain ⟨hcal, hcv, hcfg⟩ := cal_not_mem_stepRegs s
    have hres : u.lastResult = s.lastResult := (hu.changes .lastResult).resolve_left (lastResult_not_mem_stepRegs s)
    exact (hstart.later hu ⟨hcal, hcv, hcfg⟩ (.inr hv) (.inr ⟨hm, hlegal⟩)).ends (hres ▸ hs.resultLegal) u.err

/-! ### A cycle between operations -/

/-- Without `ADMIT_CORRUPTION` there are no upsets (R153). -/
theorem corruptAstate_not_admitted (hc : s.cfg.admitCorruption = false) (v : Option (BitVec 2)) :
    corruptAstate v s = s := by
  cases v with
  | none => rfl
  | some v => simp [corruptAstate, hc]

theorem sampled_owed {c : Cycle} (hp : (sampled c s).eocPend = true) : s.eocPend = true ∨ s.mode = modeAsync := by
  unfold sampled at hp
  rw [corruptAstate_fields] at hp
  simp only [sampleEoc, Bool.or_eq_true, Bool.and_eq_true, beq_iff_eq] at hp
  exact hp.imp_right And.right

theorem sampled_astate (hc : s.cfg.admitCorruption = false) (c : Cycle) : (sampled c s).astate = s.astate := by
  unfold sampled
  rw [corruptAstate_not_admitted hc]
  rfl

theorem MachineInv.sampled (h : MachineInv s) (c : Cycle) : MachineInv (sampled c s) := by
  have howed := sampled_owed (s := s) (c := c)
  have hast := fun hc => sampled_astate (s := s) hc c
  have hfields := sampled_fields c s
  generalize Machine.sampled c s = t at howed hast hfields
  rw [hfields]
  exact ⟨h.modeLegal, h.resultLegal, h.seqIdle, h.waitIdle, h.modeLoaded, h.resultLoaded,
    fun hp => (howed hp).elim h.owedAsync id, h.calUnloaded, fun hc => hast hc ▸ h.astateLegal hc,
    fun hc => hast hc ▸ h.astateAsync hc⟩

theorem MachineInv.hostAccess (h : MachineInv s) (a : HostAccess) : MachineInv (hostAccess a s) :=
  h.congr (by rw [hostAccess_sticky_fields])

theorem startOwed_machineInv {owed : Bool} (hs : MachineInv s) (h : startOwed owed s = .next t) : MachineInv t := by
  unfold startOwed at h
  split_ifs at h with howed
  · simp only [Bool.and_eq_true, beq_iff_eq] at howed
    exact asyncStep_machineInv hs howed.1.2 h
  · cases h
    exact hs

theorem commandWrite_machineInv {owed : Bool} {c : Word} (hs : MachineInv s) (h : commandWrite owed c s = .next t) :
    MachineInv t := by
  unfold commandWrite at h
  split_ifs at h
  · cases h
    exact hs.congr rfl
  · split at h
    · exact exec_machineInv hs h
    · exact startOwed_machineInv (hs.inside.raise _) h

end

/-- Settles O9: between operations the cycle's own events keep the invariant, and every operation that can start keeps
it. -/
theorem stepKeepsInvariant : Obligations.StepKeepsInvariant := by
  intro s t hs h
  obtain ⟨c, s', htake, hcases⟩ := step_cases h
  have hs' : MachineInv s' := by
    obtain ⟨-, rfl⟩ | ⟨-, h⟩ := takeCycle_cases htake
    · exact hs
    · exact hs.congr (by rw [h])
  obtain ⟨-, rfl⟩ | ⟨-, b, -, -, hissue, -⟩ | ⟨-, w, -, hcmd⟩ | ⟨-, -, howed⟩ := hcases
  · exact machineInv_doReset s'
  · rw [hs'.seqIdle] at hissue
    cases hissue
  · exact commandWrite_machineInv (hs'.sampled c) hcmd
  · exact startOwed_machineInv ((hs'.sampled c).hostAccess c.host) howed

end Sys2Proof.Machine
end

section
/-! SUPPORT, and the obligations settled with it: the frames of the loading commands, the synchronous commands and a STEP,
under any inputs but reset and refused accesses (R76, R84, R86, R89, R96, R125, R126). -/
namespace Sys2Proof.Machine

section
variable {w : List Field} {k : BitVec 8} {P : List Event → Prop} {s t u : State}

/-! ### The frame of a stretch, as one equation -/

/-- `s` with the registers `w`, and what no statement about registers speaks of, taken from `t`. -/
def fieldChange (w : List Field) (s t : State) : State := { t with
  cfg := if .cfg ∈ w then t.cfg else s.cfg
  cal := if .cal ∈ w then t.cal else s.cal
  calValid := if .calValid ∈ w then t.calValid else s.calValid
  calShadow := if .calShadow ∈ w then t.calShadow else s.calShadow
  waitCnt := if .waitCnt ∈ w then t.waitCnt else s.waitCnt
  oss := if .oss ∈ w then t.oss else s.oss
  astate := if .astate ∈ w then t.astate else s.astate
  utBuf := if .utBuf ∈ w then t.utBuf else s.utBuf
  cbEn := if .cbEn ∈ w then t.cbEn else s.cbEn
  utReg := if .utReg ∈ w then t.utReg else s.utReg
  upReg := if .upReg ∈ w then t.upReg else s.upReg
  tReg := if .tReg ∈ w then t.tReg else s.tReg
  pReg := if .pReg ∈ w then t.pReg else s.pReg
  resValid := if .resValid ∈ w then t.resValid else s.resValid
  lastResult := if .lastResult ∈ w then t.lastResult else s.lastResult }

theorem eq_ite_of_same {α : Type} {p : Prop} [Decidable p] {a b : α} (h : p ∨ b = a) : b = if p then b else a := by
  split_ifs with hp
  · rfl
  · exact h.resolve_left hp

theorem ChangesOnly.eq_fieldChange (h : ChangesOnly w s t) : t = fieldChange w s t := by
  have he {α : Type} {f : Field} {a b : α} (hf : f ∈ w ∨ b = a) : b = if f ∈ w then b else a := eq_ite_of_same hf
  unfold fieldChange
  rw [← he (h .cfg), ← he (h .cal), ← he (h .calValid), ← he (h .calShadow), ← he (h .waitCnt), ← he (h .oss),
    ← he (h .astate), ← he (h .utBuf), ← he (h .cbEn), ← he (h .utReg), ← he (h .upReg), ← he (h .tReg), ← he (h .pReg),
    ← he (h .resValid), ← he (h .lastResult)]

/-! ### Commands that have ended -/

/-- A command from `s` has ended in `t`: it has written the registers `w` and LAST_RESULT, has set ERR bits among `k` and
BUSY, and has left MODE and the edge detector to its rules. -/
structure Framed (w : List Field) (k : BitVec 8) (s t : State) : Prop where
  changes : ChangesOnly (.lastResult :: w) s t
  mode : t.mode = s.mode
  eoc : EocFollows s t
  errNew : NewErrWithin (busyMask ||| k) s t

theorem changesOnly_finishOk (w : List Field) (u : State) : ChangesOnly (.lastResult :: w) u (finishOk u) := fun f => by
  cases f with
  | lastResult => exact .inl (.head _)
  | _ => exact .inr rfl

theorem changesOnly_raise (w : List Field) (c : Err) (u : State) : ChangesOnly (.lastResult :: w) u (raise c u) :=
  fun f => by
    cases f with
    | lastResult => exact .inl (.head _)
    | _ => exact .inr rfl

theorem ChangesOnly.finishOk (h : ChangesOnly w s u) : ChangesOnly (.lastResult :: w) s (finishOk u) :=
  (h.mono (List.subset_cons_self _ _)).trans (changesOnly_finishOk w u)

theorem ChangesOnly.raise (h : ChangesOnly w s u) (c : Err) : ChangesOnly (.lastResult :: w) s (raise c u) :=
  (h.mono (List.subset_cons_self _ _)).trans (changesOnly_raise w c u)

/-- The error of a command sets its own bit (R156). -/
theorem NewErrWithin.raise (h : NewErrWithin (busyMask ||| k) s u) {c : Err} (hc : errMask c &&& ~~~k = 0#8) :
    NewErrWithin (busyMask ||| k) s (raise c u) := by
  have hset : Later [] k NoBus u (setErr (errMask c) u) := .setErr hc noBus_nil u
  exact (BitVec.or_self (x := busyMask ||| k)) ▸ h.trans hset.errNew

theorem EocFollows.finishOk (h : EocFollows s u) : EocFollows s (finishOk u) := h.congr rfl rfl rfl rfl rfl rfl rfl

theorem EocFollows.raise (h : EocFollows s u) (c : Err) : EocFollows s (raise c u) := h.congr rfl rfl rfl rfl rfl rfl rfl

theorem Later.finishOk_framed (h : Later w k P s u) : Framed w k s (finishOk u) :=
  ⟨h.changes.finishOk, h.mode, h.eoc.finishOk, h.errNew⟩

theorem Later.raise_framed (h : Later w k P s u) {c : Err} (hc : errMask c &&& ~~~k = 0#8) : Framed w k s (raise c u) :=
  ⟨h.changes.raise c, h.mode, h.eoc.raise c, h.errNew.raise hc⟩

theorem Framed.mono {v : List Field} (h : Framed v k s t) (hvw : v ⊆ w) : Framed w k s t :=
  { h with changes := h.changes.mono (List.cons_subset_cons _ hvw) }

/-- A command of which only success writes the registers `w` beyond `e`. -/
theorem Flow.Proceeds.framed {e : List Field} {x : Flow Unit} (hx : x.Proceeds e w k s) (hew : e ⊆ w) (hr : NoReset s)
    (ha : Admitted s) :
    ∃ t, outcome conclude s x = .next t ∧ Framed w k s t
      ∧ (t.lastResult ≠ 0#4 → ChangesOnly (.lastResult :: e) s t) := by
  obtain ⟨u, hnext, hu⟩ | ⟨c, u, hnext, hc, hu⟩ := outcome_goesOn hr ha conclude hx
  · exact ⟨_, hnext, hu.finishOk_framed, fun hne => absurd rfl hne⟩
  · exact ⟨_, hnext, (hu.raise_framed hc).mono hew, fun _ => hu.changes.raise c⟩

/-! ### READ_UT, READ_UP and COMPENSATE -/

/-- The datapath makes no transaction and no event (R96). -/
theorem exec_compensate_events (hr : NoReset s) (ha : Admitted s) (h : exec .compensate s = .next t) :
    t.history = s.history ∧ t.answers = s.answers ∧ t.draws = s.draws := by
  by_cases hv : s.calValid = true
  · obtain ⟨u, hu, hexec⟩ := exec_compensate_interleaved hv hr ha
    rw [h] at hexec
    cases hexec
    rw [hu.same]
    unfold compensateEnd
    split <;> exact ⟨rfl, rfl, rfl⟩
  · rw [exec_compensate_unloaded (by simpa using hv)] at h
    cases h
    exact ⟨rfl, rfl, rfl⟩

end

/-- Settles O38: what the flows of the three commands may write, and that only success writes the destination. -/
theorem syncCommandsFrame : Obligations.SyncCommandsFrame := by
  intro s hr ha
  refine ⟨?_, ?_, ?_⟩
  · obtain ⟨t, hexec, hf, herr⟩ := (readUt_proceeds s).framed (by simp) hr ha
    refine ⟨t, hexec, hf.changes.eq_fieldChange.trans ?_, hf.errNew, hf.eoc, fun hne => ?_⟩
    · simp [fieldChange, busyChange, hf.mode]
    · exact (herr hne .utReg).resolve_left (by simp)
  · obtain ⟨t, hexec, hf, herr⟩ := (readUp_proceeds s).framed (by simp) hr ha
    refine ⟨t, hexec, hf.changes.eq_fieldChange.trans ?_, hf.errNew, hf.eoc, fun hne => ?_⟩
    · simp [fieldChange, busyChange, hf.mode]
    · exact (herr hne .upReg).resolve_left (by simp)
  · obtain ⟨t, hexec, hf, herr⟩ := (compensate_proceeds s).framed (by simp) hr ha
    obtain ⟨hhist, hans, hdraws⟩ := exec_compensate_events hr ha hexec
    refine ⟨t, hexec, hf.changes.eq_fieldChange.trans ?_, hf.errNew, hf.eoc, fun hne => ⟨?_, ?_⟩⟩
    · simp [fieldChange, busyChange, hf.mode, hhist, hans, hdraws]
    · exact (herr hne .tReg).resolve_left (by simp)
    · exact (herr hne .pReg).resolve_left (by simp)

/-! ### LOAD_CAL, INIT_SYNC and INIT_ASYNC -/

section
variable {w : List Field} {k : BitVec 8} {P : List Event → Prop} {s t u : State}

theorem Loaded.cal_eq (h : Loaded k s u) (hv : s.calValid = true) : u.cal = s.cal := by rw [h.eq_of_calValid hv]

/-- Only COMM has COMM's bit alone. -/
theorem eq_comm_of_errMask {c : Err} (h : errMask c &&& ~~~errMask .comm = 0#8) : c = .comm := by
  cases c with
  | comm => rfl
  | mode | notInit | div0 | illegal | ossLocked => exact absurd h (by decide)

theorem raise_comm_err_bit (u : State) : (raise .comm u).err.getLsbD 0 = true := by simp [raise, errMask]

theorem errCode_ne_ok (c : Err) : errCode c ≠ 0#4 := by cases c <;> decide

/-- An error of a load, or before it, leaves CAL and CAL_VALID (R80). -/
theorem Later.cal_kept (h : Later [.calShadow] k P s u) : u.cal = s.cal ∧ u.calValid = s.calValid ∧ u.astate = s.astate :=
  ⟨(h.changes .cal).resolve_left (by simp), (h.changes .calValid).resolve_left (by simp),
    (h.changes .astate).resolve_left (by simp)⟩

/-- INIT_ASYNC writes ASTATE and what the load does. -/
theorem AsyncEntered.changes (h : AsyncEntered P s t) : ChangesOnly [.astate, .calShadow, .cal, .calValid] s t := by
  obtain ⟨-, u, hu, ht⟩ := h
  have henter : ChangesOnly [.astate, .calShadow, .cal, .calValid] u (enterAsync u) := fun f => by
    cases f with
    | astate => exact .inl (.head _)
    | _ => exact .inr rfl
  exact ((hu.later.changes.mono (by simp)).trans henter).trans (ht.changes.mono (List.nil_subset _))

theorem AsyncEntered.errNew (h : AsyncEntered P s t) : NewErrWithin (busyMask ||| initErrs) s t := by
  obtain ⟨-, u, hu, ht⟩ := h
  exact (BitVec.or_self (x := busyMask ||| initErrs)) ▸ hu.later.errNew.trans (t := enterAsync u) ht.errNew

/-- The edge detector before async mode is chosen, and after it with nothing owed from before (R125). -/
theorem AsyncEntered.eoc (h : AsyncEntered P s t) : ∃ u, EocFollows s u ∧ (s.calValid = true → u = s)
    ∧ EocFollows { u with mode := modeAsync, eocPend := false } t := by
  obtain ⟨-, u, hu, ht⟩ := h
  exact ⟨u, hu.later.eoc, hu.eq_of_calValid, ht.eoc⟩

theorem AsyncEntered.registers (h : AsyncEntered P s t) :
    t.mode = modeAsync ∧ t.astate = awaitingTemperature ∧ t.calValid = true ∧ (s.calValid = true → t.cal = s.cal) := by
  obtain ⟨-, u, hu, ht⟩ := h
  refine ⟨ht.mode, (ht.changes .astate).resolve_left (by simp),
    Eq.trans ((ht.changes .calValid).resolve_left (by simp)) hu.calValid, fun hv => ?_⟩
  exact Eq.trans ((ht.changes .cal).resolve_left (by simp)) (hu.cal_eq hv)

end

/-- Settles O33: the load comes first in all three; what follows it writes MODE, and in INIT_ASYNC ASTATE. -/
theorem loadersFrame : Obligations.LoadersFrame := by
  intro s hr ha
  refine ⟨?_, ?_, ?_⟩
  · obtain ⟨u, hexec, hu⟩ | ⟨c, u, hexec, hc, hu⟩ :=
      outcome_goesOn hr ha conclude (load_proceeds (k := errMask .comm) (by decide) s)
    · have hf := hu.later.finishOk_framed
      refine ⟨_, hexec, hf.changes.eq_fieldChange.trans ?_, hf.errNew, hf.eoc, hu.cal_eq, .inl ⟨rfl, hu.calValid⟩⟩
      simp [fieldChange, busyChange, hu.later.mode]
    · obtain rfl := eq_comm_of_errMask hc
      have hf := hu.raise_framed hc
      obtain ⟨hcal, hv, -⟩ := hu.cal_kept
      refine ⟨_, hexec, hf.changes.eq_fieldChange.trans ?_, hf.errNew, hf.eoc, fun _ => hcal,
        .inr ⟨rfl, hcal, hv, raise_comm_err_bit u⟩⟩
      simp [fieldChange, busyChange, hu.mode, hcal, hv]
  · obtain ⟨u, hexec, -, v, hv, rfl⟩ | ⟨c, u, hexec, hc, hu⟩ := outcome_goesOn hr ha conclude (initSync_proceeds s)
    · have hf := hv.later.finishOk_framed
      have hchanges : ChangesOnly [.lastResult, .calShadow, .cal, .calValid] s (finishOk { v with mode := modeSync }) :=
        hf.changes
      refine ⟨_, hexec, hchanges.eq_fieldChange.trans ?_, hf.errNew, hf.eoc.congr rfl rfl rfl rfl rfl rfl rfl,
        hv.cal_eq, .inl ⟨rfl, rfl, hv.calValid⟩⟩
      simp [fieldChange, busyChange]
    · have hf := hu.raise_framed hc
      obtain ⟨hcal, hv, -⟩ := hu.cal_kept
      refine ⟨_, hexec, hf.changes.eq_fieldChange.trans ?_, hf.errNew, hf.eoc, fun _ => hcal,
        .inr ⟨errCode_ne_ok c, hf.mode, hcal, hv⟩⟩
      simp [fieldChange, busyChange, hcal, hv]
  · obtain ⟨u, hexec, hu⟩ | ⟨c, u, hexec, ⟨hc, hu⟩ | ⟨rfl, hu⟩⟩ := outcome_goesOn hr ha conclude (initAsync_proceeds s)
    · obtain ⟨hm, hast, hv, hcal⟩ := hu.registers
      obtain ⟨v, heoc, hsame, heoc2⟩ := hu.eoc
      refine ⟨_, hexec, hu.changes.finishOk.eq_fieldChange.trans ?_, hu.errNew, hcal,
        .inl ⟨.inl rfl, hm, hast, hv, v, heoc, hsame, heoc2.finishOk⟩⟩
      simp [fieldChange, busyChange]
    · have hf := hu.raise_framed hc
      obtain ⟨hcal, hv, hast⟩ := hu.cal_kept
      refine ⟨_, hexec, hf.changes.eq_fieldChange.trans ?_, hf.errNew, fun _ => hcal,
        .inr ⟨errCode_ne_ok c, hf.mode, hast, hcal, hv, hf.eoc⟩⟩
      simp [fieldChange, busyChange, hcal, hv, hast]
    · obtain ⟨hm, hast, hv, hcal⟩ := hu.registers
      obtain ⟨v, heoc, hsame, heoc2⟩ := hu.eoc
      refine ⟨_, hexec, (hu.changes.raise .comm).eq_fieldChange.trans ?_, hu.errNew.raise (by decide), hcal,
        .inl ⟨.inr ⟨rfl, raise_comm_err_bit u⟩, hm, hast, hv, v, heoc, hsame, heoc2.raise .comm⟩⟩
      simp [fieldChange, busyChange]

/-! ### A STEP -/

theorem stepRegs_subset (s : State) : stepRegs s ⊆ .utBuf :: pressureRegs := by
  unfold stepRegs temperatureRegs pressureRegs
  split_ifs <;> simp

theorem not_mem_stepRegs_of_not_pressure {s : State} (h : s.astate ≠ awaitingPressure) :
    .utReg ∉ stepRegs s ∧ .upReg ∉ stepRegs s ∧ .tReg ∉ stepRegs s ∧ .pReg ∉ stepRegs s ∧ .resValid ∉ stepRegs s := by
  rw [stepRegs, if_neg h, temperatureRegs]
  split_ifs <;> simp

theorem utBuf_not_mem_stepRegs {s : State} (h : s.astate ≠ awaitingTemperature) : .utBuf ∉ stepRegs s := by
  rw [stepRegs, if_neg h, pressureRegs]
  split_ifs <;> simp

/-- Settles O51: what the stages may write, with the STEP's own start taken as the state in which it is owed no longer. -/
theorem asyncStepFrame : Obligations.AsyncStepFrame := by
  intro s hr ha
  obtain ⟨t, hstep, u, hu, -, rfl⟩ := asyncStep_goesOn hr ha
  have hchanges : ChangesOnly (.utBuf :: pressureRegs) s { u with seq := .idle } := hu.changes.mono (stepRegs_subset s)
  have hmode : u.mode = s.mode := hu.mode
  refine ⟨_, hstep, rfl, ?_, hu.errNew, hu.eoc.congr rfl rfl rfl rfl rfl rfl rfl, fun hp => ?_, fun ht => ?_⟩
  · refine hchanges.eq_fieldChange.trans ?_
    simp [fieldChange, busyChange, pressureRegs, hmode]
  · obtain ⟨h1, h2, h3, h4, h5⟩ := not_mem_stepRegs_of_not_pressure hp
    exact ⟨(hu.changes .utReg).resolve_left h1, (hu.changes .upReg).resolve_left h2,
      (hu.changes .tReg).resolve_left h3, (hu.changes .pReg).resolve_left h4, (hu.changes .resValid).resolve_left h5⟩
  · exact (hu.changes .utBuf).resolve_left (utBuf_not_mem_stepRegs ht)

end Sys2Proof.Machine
end

section
/-! SUPPORT, and the obligations settled with it: the loading commands in a quiet environment with every read completed
(R52, R76, R77, R84, R125). -/
namespace Sys2Proof.Machine

/-! ### The load of the coefficients with every read completed -/

/-- The shadow registers after the loads of the coefficients `ks`. -/
def shadowAfter (hi lo : Fin 11 → Byte) (ks : List (Fin 11)) (shadow : Vector Half 11) : Vector Half 11 :=
  ks.foldl (fun sh (k : Fin 11) => sh.set k (half (hi k) (lo k))) shadow

theorem shadowAfter_getElem (hi lo : Fin 11 → Byte) (i : Fin 11) (ks : List (Fin 11)) :
    ∀ shadow, (shadowAfter hi lo ks shadow)[i] = if i ∈ ks then half (hi i) (lo i) else shadow[i] := by
  induction ks with
  | nil => simp [shadowAfter]
  | cons k ks ih =>
    intro shadow
    have htail := ih (shadow.set k (half (hi k) (lo k)))
    rw [shadowAfter] at htail ⊢
    rw [List.foldl_cons, htail]
    by_cases hki : k = i
    · subst hki
      simp
    · simp [Fin.val_ne_of_ne hki, Ne.symm hki]

/-- A load of all eleven leaves nothing of what the shadow registers held before. -/
theorem shadowAfter_coefOrder (hi lo : Fin 11 → Byte) (shadow : Vector Half 11) :
    shadowAfter hi lo coefOrder shadow = calOf hi lo := by
  have hall : ∀ i : Fin 11, i ∈ coefOrder := by decide
  refine Vector.ext fun i h => ?_
  have hget := shadowAfter_getElem hi lo ⟨i, h⟩ coefOrder shadow
  rw [if_pos (hall _)] at hget
  rw [calOf, Vector.getElem_ofFn]
  exact hget

theorem loadCoefs_quiet (hi lo : Fin 11 → Byte) (rest : List Answer) (ks : List (Fin 11)) :
    ∀ s : State, s.inputs = [] → s.answers = readAnswers (coefReads s.cfg hi lo ks) ++ rest →
      loadCoefs ks s = .val () (afterLoadEvents (readEvents s.cfg (coefReads s.cfg hi lo ks)) rest
        (shadowAfter hi lo ks s.calShadow) s) := by
  induction ks with
  | nil =>
    intro s _ hans
    have hrest : s.answers = rest := hans
    rw [loadCoefs, ← hrest]
    simp [afterLoadEvents, readEvents, coefReads, shadowAfter]
  | cons k ks ih =>
    intro s hin hans
    rw [coefReads_cons] at hans ⊢
    have hcoef := loadCoef_quiet_data (rest := readAnswers (coefReads s.cfg hi lo ks) ++ rest) hin hans
    have hothers := ih (afterLoadEvents
      [rdEvent s.cfg (calMsbReg s.cfg k) (hi k), rdEvent s.cfg (calLsbReg s.cfg k) (lo k)]
      (readAnswers (coefReads s.cfg hi lo ks) ++ rest) (s.calShadow.set k (half (hi k) (lo k))) s) hin rfl
    rw [loadCoefs, hcoef, Flow.bind_val, hothers, afterLoadEvents_afterLoadEvents]
    rfl

/-- The state `s` after a load of the given bytes has been committed and its shadow registers discarded (R77). -/
def afterLoad (hi lo : Fin 11 → Byte) (rest : List Answer) (s : State) : State :=
  { s with
    cal := calOf hi lo, calValid := true, calShadow := Config.freeShadow (s.draws + 22)
    history := s.history ++ readEvents s.cfg (calReads s.cfg hi lo), answers := rest, draws := s.draws + 22 }

theorem load_quiet {s : State} {hi lo : Fin 11 → Byte} {rest : List Answer} (hin : s.inputs = [])
    (hv : s.calValid = false) (hans : s.answers = readAnswers (calReads s.cfg hi lo) ++ rest) :
    load s = .val () (afterLoad hi lo rest (begin s)) := by
  rw [load_unloaded hv, loadCoefs_quiet hi lo rest coefOrder (begin s) hin hans, shadowAfter_coefOrder, endLoad_val]
  rfl

/-- Settles O29: the load's one commit, after its 22 reads. -/
theorem loadCalLoads : Obligations.LoadCalLoads := by
  intro s hi lo rest hin hv hans
  refine ⟨Config.freeShadow (s.draws + 22), ?_⟩
  rw [exec_loadCal_eq_load, load_quiet hin hv hans, outcome_val]
  rfl

theorem exec_initSync_async {s : State} (hm : s.mode = modeAsync) : exec .initSync s = .next (raise .mode s) := by
  rw [exec, execInitSync, initSync, if_pos hm, outcome_err, conclude_err]

theorem exec_initAsync_sync {s : State} (hm : s.mode = modeSync) : exec .initAsync s = .next (raise .mode s) := by
  rw [exec, execInitAsync, initAsync, if_pos hm, outcome_err, conclude_err]

/-- Settles O30: the load, then the choice of the mode; in async mode neither. -/
theorem initSyncLoadsAndSelects : Obligations.InitSyncLoadsAndSelects := by
  refine ⟨fun s hi lo rest hin hv hm hans => ⟨Config.freeShadow (s.draws + 22), ?_⟩, fun s hm => exec_initSync_async hm⟩
  rw [exec_initSync_of_not_async hm, load_quiet hin hv hans, Flow.bind_val, outcome_val]
  rfl

/-- Settles O31: the load, then the choice of the mode and the start command; in sync mode none of them. -/
theorem initAsyncLoadsAndStarts : Obligations.InitAsyncLoadsAndStarts := by
  refine ⟨fun s hi lo rest hin hv hm hans => ⟨Config.freeShadow (s.draws + 22), ?_⟩, fun s hm => exec_initAsync_sync hm⟩
  have hstart := startConversion_quiet_ack (s := enterAsync (afterLoad hi lo (.ack :: rest) (begin s)))
    (b := s.cfg.cmdTemp) hin rfl
  rw [exec_initAsync_of_not_sync hm, load_quiet hin hv hans, Flow.bind_val]
  refine (congrArg (outcome conclude s) hstart).trans ?_
  rw [outcome_val]
  rfl

end Sys2Proof.Machine
end

section
/-! SUPPORT, and the obligations settled with it: READ_UT, READ_UP and the stages of a STEP in a quiet environment, by the
first transaction that fails (R86, R89, R129 to R132, R146), and a whole async cycle (R135). -/
namespace Sys2Proof.Machine

/-! ### READ_UT and READ_UP with a failed transaction (R146) -/

/-- A failed start command ends both accessors before their wait. -/
theorem startConversion_fail_eq_afterEvents {s : State} {b : Byte} {rest : List Answer} (hin : s.inputs = [])
    (h : s.answers = .fail :: rest) :
    startConversion b s = .err .comm (afterEvents [startEvent s.cfg b false] rest (begin s)) :=
  startConversion_quiet_fail hin h

/-- An accessor in sync mode, by its start command and wait, with the reads after them (R86, R89). -/
def syncReads (b : Byte) (us : Nat) (reads : State → Flow Unit) (s : State) : Flow Unit :=
  (startConversion b s).bind fun _ s1 => (waitFor us s1).bind fun _ s2 => reads s2

/-- The events of a start command and its wait. -/
def startWait (cfg : Config) (b : Byte) (us : Nat) : List Event := [startEvent cfg b true, .wait us]

theorem syncReads_start_fail {s : State} {b : Byte} {us : Nat} {reads : State → Flow Unit} {rest : List Answer}
    (hin : s.inputs = []) (h : s.answers = .fail :: rest) :
    syncReads b us reads s = .err .comm (afterEvents [startEvent s.cfg b false] rest (begin s)) := by
  rw [syncReads, startConversion_fail_eq_afterEvents hin h, Flow.bind_err]

theorem syncReads_started {s : State} {b : Byte} {us : Nat} {reads : State → Flow Unit} {rest : List Answer}
    (hin : s.inputs = []) (h : s.answers = .ack :: rest) :
    syncReads b us reads s = reads (afterEvents (startWait s.cfg b us) rest { begin s with waitCnt := 0 }) := by
  rw [syncReads, startConversion_eq_afterEvents hin h, Flow.bind_val, waitFor_afterEvents (s := begin s) hin,
    Flow.bind_val]
  rfl

/-- The reads of READ_UT. -/
def utReads (s2 : State) : Flow Unit :=
  (readByte (resultReg s2.cfg 0) s2).bind fun msb s3 =>
    (readByte (resultReg s3.cfg 1) s3).bind fun lsb s4 => .val () { s4 with utReg := half msb lsb }

/-- The reads of READ_UP for the level `o`. -/
def upReads (o : BitVec 2) (s2 : State) : Flow Unit :=
  (readByte (resultReg s2.cfg 0) s2).bind fun msb s3 =>
    (readByte (resultReg s3.cfg 1) s3).bind fun lsb s4 =>
      (readByte (resultReg s4.cfg 2) s4).bind fun xlsb s5 =>
        .val () { s5 with upReg := rawPressure msb lsb xlsb o }

theorem exec_readUt_sync {s : State} (hm : s.mode = modeSync) :
    exec .readUt s = outcome conclude s (syncReads s.cfg.cmdTemp tempWaitUs utReads s) := by
  rw [exec, execReadUt, readUt, syncGuard_sync hm]
  rfl

theorem exec_readUp_sync {s : State} (hm : s.mode = modeSync) :
    exec .readUp s = outcome conclude s (syncReads (presByte s.cfg s.oss) (presWaitUs s.oss) (upReads s.oss) s) := by
  rw [exec, execReadUp, readUp, syncGuard_sync hm]
  rfl

section
variable {s : State} {msb lsb xlsb : Byte} {rest : List Answer} (hin : s.inputs = []) (es : List Event)
include hin

theorem utReads_msb_fail :
    utReads (afterEvents es (.fail :: rest) s)
      = .err .comm (afterEvents (es ++ [rdFailEvent s.cfg (resultReg s.cfg 0)]) rest s) := by
  rw [utReads, afterEvents_cfg, readByte_fail_afterEvents hin, Flow.bind_err]

theorem utReads_lsb_fail :
    utReads (afterEvents es (.data (resultReg s.cfg 0) msb :: .fail :: rest) s)
      = .err .comm (afterEvents (es ++ [rdEvent s.cfg (resultReg s.cfg 0) msb]
          ++ [rdFailEvent s.cfg (resultReg s.cfg 1)]) rest s) := by
  rw [utReads, afterEvents_cfg, readByte_afterEvents hin, Flow.bind_val, afterEvents_cfg,
    readByte_fail_afterEvents hin, Flow.bind_err]

theorem upReads_msb_fail (o : BitVec 2) :
    upReads o (afterEvents es (.fail :: rest) s)
      = .err .comm (afterEvents (es ++ [rdFailEvent s.cfg (resultReg s.cfg 0)]) rest s) := by
  rw [upReads, afterEvents_cfg, readByte_fail_afterEvents hin, Flow.bind_err]

theorem upReads_lsb_fail (o : BitVec 2) :
    upReads o (afterEvents es (.data (resultReg s.cfg 0) msb :: .fail :: rest) s)
      = .err .comm (afterEvents (es ++ [rdEvent s.cfg (resultReg s.cfg 0) msb]
          ++ [rdFailEvent s.cfg (resultReg s.cfg 1)]) rest s) := by
  rw [upReads, afterEvents_cfg, readByte_afterEvents hin, Flow.bind_val, afterEvents_cfg,
    readByte_fail_afterEvents hin, Flow.bind_err]

theorem upReads_xlsb_fail (o : BitVec 2) :
    upReads o (afterEvents es (.data (resultReg s.cfg 0) msb :: .data (resultReg s.cfg 1) lsb :: .fail :: rest) s)
      = .err .comm (afterEvents (es ++ [rdEvent s.cfg (resultReg s.cfg 0) msb]
          ++ [rdEvent s.cfg (resultReg s.cfg 1) lsb] ++ [rdFailEvent s.cfg (resultReg s.cfg 2)]) rest s) := by
  rw [upReads, afterEvents_cfg, readByte_afterEvents hin, Flow.bind_val, afterEvents_cfg,
    readByte_afterEvents hin, Flow.bind_val, afterEvents_cfg, readByte_fail_afterEvents hin, Flow.bind_err]

end

/-- Settles O35: the completed command, then its start command failed, and each of its two reads after the wait. -/
theorem readUtResult : Obligations.ReadUtResult := by
  intro s msb lsb rest hin hm
  have hin' : ({ begin s with waitCnt := 0 } : State).inputs = [] := hin
  refine ⟨exec_readUt_quiet hin hm, fun h => ?_, fun h => ?_, fun h => ?_⟩
  all_goals rw [exec_readUt_sync hm]
  · rw [syncReads_start_fail hin h, outcome_err]
    rfl
  · rw [syncReads_started hin h, utReads_msb_fail hin', outcome_err]
    rfl
  · rw [syncReads_started hin h]
    refine (congrArg (outcome conclude s) (utReads_lsb_fail hin' _)).trans ?_
    rw [outcome_err]
    rfl

/-- Settles O36: as for READ_UT, with a third read, and the shift of R91 as Lean's own. -/
theorem readUpResult : Obligations.ReadUpResult := by
  intro s msb lsb xlsb rest hin hm
  have hin' : ({ begin s with waitCnt := 0 } : State).inputs = [] := hin
  refine ⟨fun h => ?_, fun h => ?_, fun h => ?_, fun h => ?_, fun h => ?_, rfl, rfl, rfl, rfl⟩
  · rw [exec_readUp_quiet hin hm h, rawPressure, lsr32_eq]
    rfl
  all_goals rw [exec_readUp_sync hm]
  · rw [syncReads_start_fail hin h, outcome_err]
    rfl
  · rw [syncReads_started hin h, upReads_msb_fail hin', outcome_err]
    rfl
  · rw [syncReads_started hin h]
    refine (congrArg (outcome conclude s) (upReads_lsb_fail hin' _ _)).trans ?_
    rw [outcome_err]
    rfl
  · rw [syncReads_started hin h]
    refine (congrArg (outcome conclude s) (upReads_xlsb_fail hin' _ _)).trans ?_
    rw [outcome_err]
    rfl

end Sys2Proof.Machine
end

section
/-! SUPPORT, and the obligations settled with it: the pressure stage of a STEP with each of its transactions failed (R129,
R131, R132), the invalid stage (R130), and the two STEPs of an async cycle (R135), in a quiet environment. -/
namespace Sys2Proof.Machine

/-! ### The pressure stage with a failed transaction -/

section
variable {s t : State} {msb lsb xlsb : Byte} {rest : List Answer}

theorem stagePressure_msb_fail (hin : s.inputs = []) (h : s.answers = .fail :: rest) :
    stagePressure s = .err .comm (afterEvents [rdFailEvent s.cfg (resultReg s.cfg 0)] rest s) := by
  rw [stagePressure, readByte_fail_eq_afterEvents hin h, Flow.bind_err]

theorem stagePressure_lsb_fail (hin : s.inputs = []) (h : s.answers = .data (resultReg s.cfg 0) msb :: .fail :: rest) :
    stagePressure s = .err .comm (afterEvents [rdEvent s.cfg (resultReg s.cfg 0) msb,
      rdFailEvent s.cfg (resultReg s.cfg 1)] rest s) := by
  rw [stagePressure, readByte_eq_afterEvents hin h, Flow.bind_val, afterEvents_cfg, readByte_fail_afterEvents hin,
    Flow.bind_err]
  rfl

theorem stagePressure_xlsb_fail (hin : s.inputs = [])
    (h : s.answers = .data (resultReg s.cfg 0) msb :: .data (resultReg s.cfg 1) lsb :: .fail :: rest) :
    stagePressure s = .err .comm (afterEvents [rdEvent s.cfg (resultReg s.cfg 0) msb,
      rdEvent s.cfg (resultReg s.cfg 1) lsb, rdFailEvent s.cfg (resultReg s.cfg 2)] rest s) := by
  rw [stagePressure, readByte_eq_afterEvents hin h, Flow.bind_val, afterEvents_cfg, readByte_afterEvents hin,
    Flow.bind_val, afterEvents_cfg, readByte_fail_afterEvents hin, Flow.bind_err]
  rfl

/-- The final start command fails after the compensation, which leaves the events `es` and the registers of `t`. -/
theorem stagePressure_start_fail {es : List Event} (hin : s.inputs = [])
    (h : s.answers = .data (resultReg s.cfg 0) msb :: .data (resultReg s.cfg 1) lsb
      :: .data (resultReg s.cfg 2) xlsb :: .fail :: rest)
    (hcomp : stageCompensate (rawPressure msb lsb xlsb s.oss) s.oss (afterEvents [rdEvent s.cfg (resultReg s.cfg 0) msb,
      rdEvent s.cfg (resultReg s.cfg 1) lsb, rdEvent s.cfg (resultReg s.cfg 2) xlsb] (.fail :: rest) s)
        = .val () (afterEvents es (.fail :: rest) t)) (ht : t.inputs = []) :
    stagePressure s
      = .err .comm (afterEvents (es ++ [startEvent t.cfg t.cfg.cmdTemp false]) rest (begin t)) := by
  simp only [stagePressure, readByte_eq_afterEvents hin h, readByte_afterEvents hin, afterEvents_cfg, Flow.bind_val,
    List.cons_append, List.nil_append, hcomp, startConversion_fail_afterEvents ht, Flow.bind_err]

/-- The Diag of a failed pressure stage has ASTATE = 01, and the STEP leaves 00 (R129, R131). -/
theorem asyncStep_of_stagePressure_err {es : List Event} (hast : s.astate = awaitingPressure)
    (h : stagePressure (startStep s) = .err .comm (afterEvents es rest t)) (ht : t.inputs = [])
    (htast : t.astate = s.astate) :
    asyncStep s = .next (afterEvents (es ++ [.diag .commError 1#8]) rest
      { setErr (errMask .comm) t with astate := awaitingTemperature, seq := .idle }) := by
  rw [asyncStep_of_stage_err ht (stepStage_pressure (s := startStep s) hast) h, htast, hast]
  rfl

end

/-- Settles O49: the stage by the first transaction that fails, and what `stepCommFail` adds to it; a failed start command
comes after the compensation, with a result or a zero divisor. -/
theorem stagePressureFailures : Obligations.StagePressureFailures := by
  intro s msb lsb xlsb rest hin hast
  refine ⟨fun h => ?_, fun h => ?_, fun h => ?_, fun h => ⟨fun r hcomp => ?_, fun hcomp => ?_⟩⟩
  · exact asyncStep_of_stagePressure_err hast (stagePressure_msb_fail (s := startStep s) hin h) hin rfl
  · rw [asyncStep_of_stagePressure_err hast (stagePressure_lsb_fail (s := startStep s) hin h) hin rfl]
    simp only [afterEvents, List.append_assoc]
    rfl
  · rw [asyncStep_of_stagePressure_err hast (stagePressure_xlsb_fail (s := startStep s) hin h) hin rfl]
    simp only [afterEvents, List.append_assoc]
    rfl
  · rw [asyncStep_of_stagePressure_err hast (stagePressure_start_fail (s := startStep s) hin h
      (stageCompensate_afterEvents_result (s := startStep s) hin hcomp _ _) hin) hin rfl]
    simp only [afterEvents, List.countP_append, pulses_countP_isBus, List.append_assoc]
    rfl
  · rw [asyncStep_of_stagePressure_err hast (stagePressure_start_fail (s := startStep s) hin h
      (stageCompensate_afterEvents_div0 (s := startStep s) hin hcomp _ _) hin) hin rfl]
    simp only [afterEvents, List.append_assoc, setErr_err, begin_err, stepDiv0_err, BitVec.or_assoc]
    rfl

/-! ### The invalid stage (R130) -/

section
variable {s : State} {rest : List Answer} (hin : s.inputs = [])
include hin

theorem diag_afterEvents (k : DiagKind) (v : Byte) (es : List Event) :
    diag k v (afterEvents es rest s) = .val () (afterEvents (es ++ [.diag k v]) rest s) := by
  rw [diag_quiet (s := afterEvents es rest s) hin, ← afterEvents_afterEvents es _ rest]
  rfl

/-- The Diag of the invalid stage, and ERR[7] with it. -/
theorem stageInvalid_start (h : s.answers = rest) :
    stageInvalid s = ((startConversion s.cfg.cmdTemp
        (afterEvents [.diag .invalidState (s.astate.setWidth 8)] rest (setErr stateMask s))).bind fun _ s2 =>
      .val () { s2 with astate := awaitingTemperature }).recover invalidCommFail := by
  subst h
  rw [stageInvalid, diag_quiet hin, Flow.bind_val]
  rfl

theorem stageInvalid_ack (h : s.answers = .ack :: rest) :
    stageInvalid s = .val () (afterEvents [.diag .invalidState (s.astate.setWidth 8),
      startEvent s.cfg s.cfg.cmdTemp true] rest
        { setErr stateMask (begin s) with astate := awaitingTemperature }) := by
  have hstart := startConversion_afterEvents (s := setErr stateMask s) hin
    [.diag .invalidState (s.astate.setWidth 8)] s.cfg.cmdTemp rest
  rw [stageInvalid_start hin h, hstart, Flow.bind_val, Flow.recover_val]
  rfl

theorem stageInvalid_fail (h : s.answers = .fail :: rest) :
    stageInvalid s = .val () (afterEvents [.diag .invalidState (s.astate.setWidth 8),
      startEvent s.cfg s.cfg.cmdTemp false, .diag .commError (BitVec.ofNat 8 (controlReg s.cfg))] rest
        (setErr (errMask .comm) { setErr stateMask (begin s) with astate := awaitingTemperature })) := by
  have hstart := startConversion_fail_afterEvents (s := setErr stateMask s) hin
    [.diag .invalidState (s.astate.setWidth 8)] s.cfg.cmdTemp rest
  have hdiag := diag_afterEvents
    (s := setErr (errMask .comm) { setErr stateMask (begin s) with astate := awaitingTemperature }) (rest := rest) hin
    .commError (BitVec.ofNat 8 (controlReg s.cfg))
    [.diag .invalidState (s.astate.setWidth 8), startEvent s.cfg s.cfg.cmdTemp false]
  rw [stageInvalid_start hin h, hstart, Flow.bind_err, Flow.recover_err]
  exact hdiag

end

/-- Settles O50: the stage's Diag and its start command, and one more Diag if it fails. -/
theorem stageInvalidRecovers : Obligations.StageInvalidRecovers := by
  intro s rest hin hast
  have hstage : stepStage (startStep s) = stageInvalid (startStep s) := by
    obtain hast | hast := hast <;>
    exact stepStage_invalid (by rw [startStep_astate, hast]; decide) (by rw [startStep_astate, hast]; decide)
  refine ⟨fun h => ?_, fun h => ?_⟩
  · rw [asyncStep, hstage, stageInvalid_ack (s := startStep s) hin h, outcome_val]
    rfl
  · rw [asyncStep, hstage, stageInvalid_fail (s := startStep s) hin h, outcome_val]
    simp only [endStep_val, afterEvents, setErr_err, begin_err, BitVec.or_assoc]
    rfl

/-! ### An async cycle (R135) -/

/-- In a quiet environment an owed STEP is the whole step (R126, R150). -/
theorem step_quiet_owed {s : State} (hwf : s.cfg.wf = true) (hin : s.inputs = []) (hidle : s.seq = .idle)
    (hm : s.mode = modeAsync) (hp : s.eocPend = true) : step s = asyncStep s := by
  have htake : takeCycle s = (quietCycle s.eocPrev, s) := by rw [takeCycle, hin]
  have hsample : sampleEoc s.eocPrev (corruptAstate none s) = s := sampleEoc_same_level s
  simp [step, cycleStep, hwf, htake, runCycle, quietCycle, HostAccess.admitted, HostAccess.command, hostAccess, hsample,
    hidle, startOwed, hm, hp, busy_of_idle hidle]

theorem pulses_filter_isPulse (en : BitVec 3) (ut : Half) (up : Word) (r : Word × Word) :
    (pulses en ut up r).filter Event.isPulse = pulses en ut up r := by
  rw [pulses]
  split_ifs <;> rfl

/-- The second step of a cycle: its pulses are those of the enabled channels (R129). -/
theorem step_pressure_quiet {s : State} {msb lsb xlsb : Byte} {r : Word × Word} {rest : List Answer}
    (howed : step s = asyncStep s) (hin : s.inputs = []) (hast : s.astate = awaitingPressure)
    (h : s.answers = .data (resultReg s.cfg 0) msb :: .data (resultReg s.cfg 1) lsb
      :: .data (resultReg s.cfg 2) xlsb :: .ack :: rest)
    (hcomp : comp s.cal s.utBuf (rawPressure msb lsb xlsb s.oss) s.oss = some r) :
    ∃ b, step s = .next b ∧ b.astate = awaitingTemperature ∧ b.history.filter Event.isPulse
      = s.history.filter Event.isPulse ++ pulses s.cbEn s.utBuf (rawPressure msb lsb xlsb s.oss) r := by
  refine ⟨_, howed.trans (asyncStep_pressure_quiet_result hin hast h rfl hcomp), rfl, ?_⟩
  simp [afterEvents, List.filter_append, pulses_filter_isPulse, rdEvent, startEvent, Event.isPulse]

/-- The state after the first step of a cycle (R128). -/
def afterTemperature (msb lsb : Byte) (rest : List Answer) (s : State) : State :=
  afterEvents [rdEvent s.cfg (resultReg s.cfg 0) msb, rdEvent s.cfg (resultReg s.cfg 1) lsb,
    startEvent s.cfg (presByte s.cfg s.oss) true] rest
    { s with eocPend := false, utBuf := half msb lsb, astate := awaitingPressure, seq := .idle }

theorem afterTemperature_pulses (msb lsb : Byte) (rest : List Answer) (s : State) :
    (afterTemperature msb lsb rest s).history.filter Event.isPulse = s.history.filter Event.isPulse := by
  simp [afterTemperature, afterEvents, rdEvent, startEvent, Event.isPulse]

/-- Settles O52: the two stages of a cycle with every transaction completed; a transaction is no pulse. -/
theorem twoStepsMakeOneCycle : Obligations.TwoStepsMakeOneCycle := by
  intro s m l p0 p1 p2 r rest hwf hin hidle hm hast hp hans hcomp
  have htemp := (step_quiet_owed hwf hin hidle hm hp).trans (asyncStep_temperature_quiet hin hast hans)
  have hpulses := afterTemperature_pulses m l (.data (resultReg s.cfg 0) p0 :: .data (resultReg s.cfg 1) p1
    :: .data (resultReg s.cfg 2) p2 :: .ack :: rest) s
  obtain ⟨b, hstep, hend, hfired⟩ := step_pressure_quiet (s := { afterTemperature m l (.data (resultReg s.cfg 0) p0
    :: .data (resultReg s.cfg 1) p1 :: .data (resultReg s.cfg 2) p2 :: .ack :: rest) s with eocPend := true })
    (step_quiet_owed hwf hin rfl hm rfl) hin rfl rfl hcomp
  exact ⟨_, b, htemp, rfl, hpulses, hstep, hend, hfired.trans (congrArg (· ++ _) hpulses)⟩

end Sys2Proof.Machine
end

section
/-! SUPPORT, and the obligations settled with it: one cycle that begins between two operations, by its host access (R68,
R126, R149, R150, R153). -/
namespace Sys2Proof.Machine

/-! ### A cycle without reset, with the sequencer idle -/

section
variable {s : State} {c : Cycle}

theorem sampled_seq (c : Cycle) (s : State) : (sampled c s).seq = s.seq := by rw [sampled_fields]

/-- The cycle's command runs after its upset and edge detector (log 9). -/
theorem runCycle_of_command {w : Word} (hidle : s.seq = .idle) (hrst : c.rst = false) (hadm : c.host.admitted = true)
    (hcmd : c.host.command = some w) : runCycle c s = commandWrite s.eocPend w (sampled c s) := by
  simp [runCycle, sampled, hrst, hadm, hidle, hcmd]

/-- Without a command the host's access takes effect, and a STEP starts if one was owed. -/
theorem runCycle_of_no_command (hidle : s.seq = .idle) (hrst : c.rst = false) (hadm : c.host.admitted = true)
    (hcmd : c.host.command = none) : runCycle c s = startOwed s.eocPend (hostAccess c.host (sampled c s)) := by
  simp [runCycle, sampled, hrst, hadm, hidle, hcmd]

theorem sampled_of_no_upset (h : c.corrupt = none) (s : State) : sampled c s = sampleEoc c.eoc s := by
  rw [sampled, h]
  rfl

theorem hostAccess_seq (a : HostAccess) (s : State) : (hostAccess a s).seq = s.seq := by rw [hostAccess_sticky_fields]

theorem startOwed_async {owed : Bool} {t : State} (howed : owed = true) (hm : t.mode = modeAsync)
    (hidle : t.seq = .idle) : startOwed owed t = asyncStep t := by
  simp [startOwed, howed, hm, busy_of_idle hidle]

theorem startOwed_of_not_owed {owed : Bool} (howed : owed = false) (t : State) : startOwed owed t = .next t := by
  rw [howed, startOwed_false]

theorem commandWrite_of_decodes {t : State} {w : Word} {i : Instr} (hidle : t.seq = .idle) (hi : decodeHost w = .ok i)
    (owed : Bool) : commandWrite owed w t = exec i t := by
  simp [commandWrite, busy_of_idle hidle, hi]

theorem commandWrite_of_illegal {t : State} {w : Word} {e : DecodeError} (hidle : t.seq = .idle)
    (he : decodeHost w = .error e) (owed : Bool) : commandWrite owed w t = startOwed owed (illegalCommand t) := by
  simp [commandWrite, busy_of_idle hidle, he]

theorem admitted_of_command_write {w : Word} (h : c.host = .write offCmd 4 w) :
    c.host.admitted = true ∧ c.host.command = some w := by
  rw [h]
  exact ⟨rfl, rfl⟩

/-- A step whose cycle writes a word to CMD. -/
theorem step_of_command_write {cs : List Cycle} {w : Word} (hwf : s.cfg.wf = true) (hidle : s.seq = .idle)
    (hin : s.inputs = c :: cs) (hrst : c.rst = false) (hhost : c.host = .write offCmd 4 w) :
    step s = commandWrite s.eocPend w (sampled c { s with inputs := cs }) := by
  obtain ⟨hadm, hcmd⟩ := admitted_of_command_write hhost
  rw [step_eq_runCycle hwf hin]
  exact runCycle_of_command (s := { s with inputs := cs }) hidle hrst hadm hcmd

/-- A step whose cycle writes no word to CMD. -/
theorem step_of_no_command {cs : List Cycle} (hwf : s.cfg.wf = true) (hidle : s.seq = .idle) (hin : s.inputs = c :: cs)
    (hrst : c.rst = false) (hadm : c.host.admitted = true) (hcmd : c.host.command = none) :
    step s = startOwed s.eocPend (hostAccess c.host (sampled c { s with inputs := cs })) := by
  rw [step_eq_runCycle hwf hin]
  exact runCycle_of_no_command (s := { s with inputs := cs }) hidle hrst hadm hcmd

end

/-! ### The obligations -/

/-- Settles O6: a CMD write that decodes is exec of its instruction on the sampled state. -/
theorem stepRunsDecodedCommand : Obligations.StepRunsDecodedCommand := by
  refine ⟨fun s c cs w i hwf hidle hin hrst hhost hi => ?_, fun s w i hwf hi => ?_⟩
  · rw [step_of_command_write hwf hidle hin hrst hhost]
    exact commandWrite_of_decodes ((sampled_seq c { s with inputs := cs }).trans hidle) hi _
  · rw [step_withFetchWord_host hwf]
    exact commandWrite_of_decodes rfl hi _

/-- Settles O7: the placed cycle is quiet, so the byte at the bus port is all that the step runs. -/
theorem stepRunsStartCommand : Obligations.StepRunsStartCommand := by
  intro s t b i hwf hi hexec
  have hsample : sampleEoc s.eocPrev (corruptAstate none { s with seq := .issue (BitVec.ofNat 8 b) })
      = { s with seq := .issue (BitVec.ofNat 8 b) } := sampleEoc_same_level _
  rw [step_eq_runCycle (s := s.withFetchWord 8 b) (c := quietCycle s.eocPrev) (cs := s.inputs) hwf rfl]
  have hrun : runCycle (quietCycle s.eocPrev) { s with seq := .issue (BitVec.ofNat 8 b) }
      = issueCommand (BitVec.ofNat 8 b) { s with seq := .issue (BitVec.ofNat 8 b) } := by
    simp [runCycle, quietCycle, HostAccess.admitted, hsample, hostAccess]
  refine hrun.trans ?_
  simp [issueCommand, hi, hexec]

/-- Settles O12: without a command the owed STEP starts after the host's access, and with an ILLEGAL word after its
report. -/
theorem owedStepStarts : Obligations.OwedStepStarts := by
  intro s c cs hwf hidle hm hp hin hrst hup
  have hsampled := sampled_of_no_upset hup { s with inputs := cs }
  refine ⟨fun hadm hcmd => ?_, fun w e hhost he => ?_⟩
  · rw [step_of_no_command hwf hidle hin hrst hadm hcmd, hsampled]
    exact startOwed_async hp ((hostAccess_frame _ _).2.trans hm) ((hostAccess_seq _ _).trans hidle)
  · have hseq : (sampleEoc c.eoc { s with inputs := cs }).seq = .idle := hidle
    rw [step_of_command_write hwf hidle hin hrst hhost, hsampled, commandWrite_of_illegal hseq he]
    have hstart := startOwed_async (t := illegalCommand (sampleEoc c.eoc { s with inputs := cs })) hp hm rfl
    exact hstart.trans (congrArg asyncStep (illegalCommand_idle hseq))

/-- Settles O13: SET_OSS is not locked in ASTATE = 00, and exec of it leaves EOC_PEND at 1. -/
theorem commandBeatsOwedStep : Obligations.CommandBeatsOwedStep := by
  intro s c cs o hwf hidle hm hast hp hin hrst hup hhost
  have hseq : (sampleEoc c.eoc { s with inputs := cs }).seq = .idle := hidle
  have hfree : ¬((sampleEoc c.eoc { s with inputs := cs }).mode = modeAsync
      ∧ (sampleEoc c.eoc { s with inputs := cs }).astate = awaitingPressure) := by
    rintro ⟨-, hlocked⟩
    exact absurd (hast.symm.trans hlocked) (by decide)
  rw [step_of_command_write hwf hidle hin hrst hhost, sampled_of_no_upset hup,
    commandWrite_of_decodes hseq (decodeHost_setOss o), exec_setOss_unlocked hfree o]
  simp [finishOk, sampleEoc, codeOk, hp, hidle]

theorem sampleEoc_not_owed {s : State} (hp : s.eocPend = false) (e : Bool) : sampleEoc e s
    = { s with eocPend := e && !s.eocPrev && decide (s.mode = modeAsync), eocPrev := e } := by
  simp [sampleEoc, hp, Bool.beq_eq_decide_eq]

/-- Settles O14: with no STEP owed an idle cycle is its sample of eoc, and after it the host's read. -/
theorem idleCycleOnlySamples : Obligations.IdleCycleOnlySamples := by
  intro s c cs hwf hidle hp hin hrst hup
  have hsampled := (sampled_of_no_upset hup { s with inputs := cs }).trans
    (sampleEoc_not_owed (s := { s with inputs := cs }) hp c.eoc)
  refine ⟨fun hhost => ?_, fun off hoff hhost => ?_⟩
  · rw [step_of_no_command hwf hidle hin hrst (by rw [hhost]; rfl) (by rw [hhost]; rfl), hsampled,
      startOwed_of_not_owed hp, hhost]
    rfl
  · rw [step_of_no_command hwf hidle hin hrst (by rw [hhost, admitted_read_iff]; exact ⟨rfl, hoff⟩)
      (by rw [hhost]; rfl), hsampled, startOwed_of_not_owed hp, hhost]
    rfl

theorem corruptAstate_admitted {s : State} (hidle : s.seq = .idle) (hc : s.cfg.admitCorruption = true) (v : BitVec 2) :
    corruptAstate (some v) s = pushEvent (.corrupt v) { s with astate := v } := by
  simp [corruptAstate, hc, busy_of_idle hidle]

/-- Settles O15: with no edge and no access the cycle is its upset, by the parameter. -/
theorem upsetNeedsParameter : Obligations.UpsetNeedsParameter := by
  intro s c cs v hwf hidle hp hin hrst hup hhost heoc
  have hsample (t : State) (ht : t.eocPend = false) : sampleEoc false t = { t with eocPrev := false } := by
    simp [sampleEoc, ht]
  rw [step_of_no_command hwf hidle hin hrst (by rw [hhost]; rfl) (by rw [hhost]; rfl), startOwed_of_not_owed hp, hhost]
  refine congrArg Host.Outcome.next ?_
  simp only [hostAccess, sampled, hup, heoc]
  cases hc : s.cfg.admitCorruption with
  | true =>
    rw [corruptAstate_admitted (s := { s with inputs := cs }) hidle hc]
    exact hsample (pushEvent (.corrupt v) { s with inputs := cs, astate := v }) hp
  | false =>
    rw [corruptAstate_not_admitted (s := { s with inputs := cs }) hc]
    exact hsample { s with inputs := cs } hp

end Sys2Proof.Machine
end

section
/-! SUPPORT, and the obligations settled with it: ERR as the host writes it and as a step sets it in the same cycle (R37,
R55, R150). -/
namespace Sys2Proof.Machine

theorem clearErr_bit {i : Nat} (hi : i < 8) (w : Word) (s : State) :
    (clearErr w s).err.getLsbD i = (s.err.getLsbD i && !w.getLsbD i) := by
  simp [hi]

/-- ERR[7] is the bit of the STATE error. -/
theorem setErr_state_bit (s : State) : (setErr stateMask s).err.getLsbD 7 = true := by
  simp [stateMask]

/-- What is set stays set if nothing clears it. -/
theorem getLsbD_of_kept {a b : BitVec 8} (h : a &&& b = a) {i : Nat} (ha : a.getLsbD i = true) : b.getLsbD i = true := by
  rw [← h, BitVec.getLsbD_and, Bool.and_eq_true] at ha
  exact ha.2

/-- In a quiet environment a STEP that finds an illegal ASTATE ends with ERR[7] set (R130). -/
theorem asyncStep_invalid_quiet {s : State} (hin : s.inputs = []) (hast : s.astate = 3#2) :
    ∃ t, asyncStep s = .next t ∧ t.err.getLsbD 7 = true := by
  have hstage : stepStage (startStep s) = stageInvalid (startStep s) :=
    stepStage_invalid (by rw [startStep_astate, hast]; decide) (by rw [startStep_astate, hast]; decide)
  have hquiet : (startStep s).inputs = [] := hin
  rw [asyncStep, hstage, stageInvalid_start hquiet rfl]
  generalize hu : afterEvents _ _ (setErr stateMask (startStep s)) = u
  have huin : u.inputs = [] := by rw [← hu]; exact hin
  have hnone {P : Cycle → Prop} : ∀ c ∈ u.inputs, P c := by simp [huin]
  obtain ⟨t, hnext, ht, -⟩ | ⟨_, _, -, hno⟩ := outcome_goesOn (s := u) hnone hnone endStep
    (invalidStart_finishes (startStep s).cfg.cmdTemp (s := u) (by rw [← hu]; rfl))
  · have hbit : u.err.getLsbD 7 = true := by rw [← hu]; exact setErr_state_bit (startStep s)
    rw [outcome_admitted (s := u) hnone] at hnext
    rw [outcome_admitted (s := startStep s) (by rw [Admitted, hquiet]; simp)]
    exact ⟨_, hnext, getLsbD_of_kept (ht.errKept hnone) hbit⟩
  · exact hno.elim

/-- Settles O20: the write of ERR is clearErr, and the STEP that starts in its cycle sets ERR[7] after it. -/
theorem errWriteOneToClear : Obligations.ErrWriteOneToClear := by
  refine ⟨fun s w => ⟨rfl, rfl, fun i hi => clearErr_bit hi w s⟩,
    fun s c w hwf hidle hm hp hast hin hrst hup hhost => ?_⟩
  have hstep : step s = asyncStep (clearErr w (sampleEoc c.eoc { s with inputs := [] })) := by
    rw [step_of_no_command hwf hidle hin hrst (by rw [hhost]; rfl) (by rw [hhost]; rfl), sampled_of_no_upset hup, hhost]
    exact startOwed_async hp hm hidle
  rw [hstep]
  exact asyncStep_invalid_quiet rfl hast

end Sys2Proof.Machine
end

section
/-! SUPPORT, and the obligations settled with it: an operation's cycles with host accesses and eoc edges in them, and all its
transactions answered (R59, R93, R168). -/
namespace Sys2Proof.Machine

/-! ### The wait (R168) -/

theorem waitTicks_bounds (cfg : Config) (us : Nat) : us * cfg.clkHz ≤ waitTicks cfg us * 1000000
    ∧ waitTicks cfg us * 1000000 < us * cfg.clkHz + 1000000 := by
  rw [waitTicks]
  omega

theorem busyTick_history (c : Cycle) (s : State) : (busyTick c s).history = s.history :=
  (hostAccess_frame c.host (sampleEoc c.eoc s)).1

/-- The counter takes one cycle a tick, or all there are. -/
theorem countDown_takes (cs : List Cycle) : ∀ (n : Nat) (s : State), (∀ c ∈ cs, c.rst = false) →
    (∀ c ∈ cs, c.host.admitted = true) →
    ∃ t, countDown cs n s = .val () t ∧ t.inputs = cs.drop n ∧ t.waitCnt = 0 ∧ t.history = s.history := by
  induction cs with
  | nil => exact fun n s _ _ => ⟨_, rfl, List.drop_nil.symm, rfl, rfl⟩
  | cons c cs ih =>
    intro n s hr ha
    cases n with
    | zero => exact ⟨_, rfl, rfl, rfl, rfl⟩
    | succ n =>
      obtain ⟨hrst, hrs⟩ := List.forall_mem_cons.1 hr
      obtain ⟨hadm, has⟩ := List.forall_mem_cons.1 ha
      obtain ⟨t, hval, hin, hcnt, hhist⟩ := ih n (busyTick c { s with inputs := cs, waitCnt := n }) hrs has
      exact ⟨t, by simpa [countDown, hrst, hadm] using hval, hin, hcnt, hhist.trans (busyTick_history _ _)⟩

/-- Settles O59: the counter's load is the ceiling, and it is counted down over the cycles to come. -/
theorem waitTakesItsCycles : Obligations.WaitTakesItsCycles :=
  ⟨waitTicks_bounds, fun _ s hr ha => countDown_takes s.inputs _ _ hr ha⟩

/-! ### The answered transactions of an acquisition -/

/-- Since `s` the operation has added the events `es`, and it goes on with the answers `rest`, whatever the cycles between
have brought. -/
structure Ongoing (es : List Event) (rest : List Answer) (s t : State) : Prop where
  cfg : t.cfg = s.cfg
  history : t.history = s.history ++ es
  answers : t.answers = rest
  busy : busy t = true
  noReset : NoReset t
  admitted : Admitted t

section
variable {s t u : State} {es : List Event} {as rest : List Answer}

theorem Abandoned.resetToCome (h : Abandoned s t) : ResetToCome s := by
  obtain ⟨_, -, -, hrst⟩ := h
  exact hrst

/-- Where an operation starts. -/
theorem Ongoing.start (hr : NoReset s) (ha : Admitted s) (hans : s.answers = rest) (b : Byte) :
    Ongoing [] rest s { s with seq := .issue b } :=
  ⟨rfl, (List.append_nil _).symm, hans, rfl, hr, ha⟩

theorem Ongoing.interleaved (h : Ongoing es rest s t) (hu : Interleaved t u) : Ongoing es rest s u where
  cfg := by rw [hu.same]; exact h.cfg
  history := hu.history_eq.trans h.history
  answers := by rw [hu.same]; exact h.answers
  busy := hu.busy h.busy
  noReset := hu.noReset h.noReset
  admitted := hu.admitted h.admitted

/-- One event, with the answer it used up. -/
theorem Ongoing.event (h : Ongoing es as s t) {e : Event} (hcfg : u.cfg = t.cfg) (hhist : u.history = t.history ++ [e])
    (hans : u.answers = rest) (hb : Machine.busy u = true) (hin : u.inputs = t.inputs) :
    Ongoing (es ++ [e]) rest s u where
  cfg := hcfg.trans h.cfg
  history := by rw [hhist, h.history, List.append_assoc]
  answers := hans
  busy := hb
  noReset := by rw [NoReset, hin]; exact h.noReset
  admitted := by rw [Admitted, hin]; exact h.admitted

theorem drawRead_data {r : Nat} {b : Byte} (h : t.answers = .data r b :: rest) : drawRead r t = (some b, rest) := by
  simp [drawRead, h]

theorem drawWrite_ack (h : t.answers = .ack :: rest) : drawWrite t = (true, rest) := by
  simp [drawWrite, h]

theorem startConversion_ongoing (hr : NoReset s) (ha : Admitted s) (hans : s.answers = .ack :: rest) (b : Byte) :
    ∃ t, startConversion b s = .val () t ∧ Ongoing [startEvent s.cfg b true] rest s t := by
  have hdraw := drawWrite_ack hans
  obtain ⟨_, t, hval, -, u, hu, rfl⟩ | ⟨_, _, -, -, hno, -⟩ :=
    (startConversion_ends (b := b) (s := s)).goesOn hr ha (fun _ => Abandoned.resetToCome) id
  · have hgap := (Ongoing.start hr ha hans b).interleaved hu
    refine ⟨_, hval, hgap.event rfl ?_ (congrArg Prod.snd hdraw) rfl rfl⟩
    rw [hgap.history, List.append_nil]
  · rw [hdraw] at hno
    cases hno

theorem Ongoing.waitFor (h : Ongoing es rest s t) (us : Nat) :
    ∃ v, Machine.waitFor us t = .val () v ∧ Ongoing (es ++ [.wait us]) rest s v := by
  obtain ⟨_, v, hval, u, hu, hv⟩ | ⟨_, _, -, hno⟩ := (waitFor_ends (us := us) h.busy).goesOn h.noReset h.admitted
    (fun _ hrst => hrst.elim Abandoned.resetToCome fun ⟨_, _, hu, _, _, _, hto⟩ =>
      hu.resetToCome hto) id
  · have hgap := h.interleaved hu
    exact ⟨v, hval, (hgap.event (u := { pushEvent (.wait us) u with waitCnt := 0 }) rfl rfl hgap.answers hgap.busy
      rfl).interleaved hv⟩
  · exact hno.elim

theorem Ongoing.readByte {r : Nat} {b : Byte} (h : Ongoing es (.data r b :: rest) s t) :
    ∃ v, Machine.readByte r t = .val b v ∧ Ongoing (es ++ [rdEvent s.cfg r b]) rest s v := by
  have hdraw := drawRead_data h.answers
  obtain ⟨b', v, hval, hb, u, hu, rfl⟩ | ⟨_, _, -, -, hno, -⟩ :=
    (readByte_ends (r := r) h.busy).goesOn h.noReset h.admitted (fun _ => Abandoned.resetToCome) id
  · obtain rfl : b = b' := by simpa [hdraw] using hb
    have hgap := h.interleaved hu
    refine ⟨_, hval, hgap.event rfl ?_ (congrArg Prod.snd hdraw) hgap.busy rfl⟩
    rw [hu.history_eq, ← h.cfg]
  · rw [hdraw] at hno
    cases hno

/-- A start command and its wait, with the transaction completed. -/
theorem syncReads_ongoing (hr : NoReset s) (ha : Admitted s) (hans : s.answers = .ack :: rest) (b : Byte) (us : Nat)
    (reads : State → Flow Unit) :
    ∃ t, syncReads b us reads s = reads t ∧ Ongoing (startWait s.cfg b us) rest s t := by
  obtain ⟨t, hstart, ht⟩ := startConversion_ongoing hr ha hans b
  obtain ⟨u, hwait, hu⟩ := ht.waitFor us
  exact ⟨u, by rw [syncReads, hstart, Flow.bind_val, hwait, Flow.bind_val], hu⟩

theorem Ongoing.utReads {msb lsb : Byte}
    (h : Ongoing es (.data (resultReg s.cfg 0) msb :: .data (resultReg s.cfg 1) lsb :: rest) s t) :
    ∃ u, Machine.utReads t = .val () { u with utReg := half msb lsb } ∧ Ongoing (es
      ++ [rdEvent s.cfg (resultReg s.cfg 0) msb] ++ [rdEvent s.cfg (resultReg s.cfg 1) lsb]) rest s u := by
  obtain ⟨t1, hmsb, h1⟩ := h.readByte
  obtain ⟨t2, hlsb, h2⟩ := h1.readByte
  exact ⟨t2, by rw [Machine.utReads, h.cfg, hmsb, Flow.bind_val, h1.cfg, hlsb, Flow.bind_val], h2⟩

theorem Ongoing.upReads {msb lsb xlsb : Byte} (h : Ongoing es (.data (resultReg s.cfg 0) msb
      :: .data (resultReg s.cfg 1) lsb :: .data (resultReg s.cfg 2) xlsb :: rest) s t) (o : BitVec 2) :
    ∃ u, Machine.upReads o t = .val () { u with upReg := rawPressure msb lsb xlsb o } ∧ Ongoing (es
      ++ [rdEvent s.cfg (resultReg s.cfg 0) msb] ++ [rdEvent s.cfg (resultReg s.cfg 1) lsb]
      ++ [rdEvent s.cfg (resultReg s.cfg 2) xlsb]) rest s u := by
  obtain ⟨t1, hmsb, h1⟩ := h.readByte
  obtain ⟨t2, hlsb, h2⟩ := h1.readByte
  obtain ⟨t3, hxlsb, h3⟩ := h2.readByte
  refine ⟨t3, ?_, h3⟩
  rw [Machine.upReads, h.cfg, hmsb, Flow.bind_val, h1.cfg, hlsb, Flow.bind_val, h2.cfg, hxlsb, Flow.bind_val]

end

/-- Settles O37: each transaction goes on with its answer, whatever the cycles before it bring. -/
theorem syncReadsAreUndisturbed : Obligations.SyncReadsAreUndisturbed := by
  intro s msb lsb xlsb rest hr ha hm
  refine ⟨fun hans => ?_, fun hans => ?_⟩
  · obtain ⟨t, hwait, ht⟩ := syncReads_ongoing hr ha hans s.cfg.cmdTemp tempWaitUs utReads
    obtain ⟨u, hreads, hu⟩ := ht.utReads
    have hexec : exec .readUt s = .next (finishOk { u with utReg := half msb lsb }) := by
      rw [exec_readUt_sync hm, hwait, hreads, outcome_val, conclude_val]
    exact ⟨_, hexec, rfl, rfl, rfl, hu.answers, hu.history⟩
  · obtain ⟨t, hwait, ht⟩ := syncReads_ongoing hr ha hans (presByte s.cfg s.oss) (presWaitUs s.oss) (upReads s.oss)
    obtain ⟨u, hreads, hu⟩ := ht.upReads s.oss
    have hexec : exec .readUp s = .next (finishOk { u with upReg := rawPressure msb lsb xlsb s.oss }) := by
      rw [exec_readUp_sync hm, hwait, hreads, outcome_val, conclude_val]
    exact ⟨_, hexec, rfl, rfl, rfl, hu.answers, hu.history⟩

end Sys2Proof.Machine
end

section
/-! SUPPORT, and the obligations settled with it: reset between operations, before an operation's first event, and about its
Wait event (R164). -/
namespace Sys2Proof.Machine

/-- The next cycle asserts reset, and no event of an operation comes before it. -/
def ResetFirst (s : State) (c : Cycle) (cs : List Cycle) : Prop := s.inputs = c :: cs ∧ c.atOnce = 0 ∧ c.rst = true

/-- The state after a reset in the first cycle: every register at its reset value. -/
def resetTaken (cs : List Cycle) (s : State) : State := doReset { s with inputs := cs }

@[simp] theorem Flow.recover_rst (s : State) (f : State → Flow Unit) : (Flow.rst s : Flow Unit).recover f = .rst s := rfl
@[simp] theorem endStep_rst (s : State) : endStep (.rst s) = s := rfl

section
variable {s : State} {c : Cycle} {cs : List Cycle} (h : ResetFirst s c cs)
include h

/-! ### The first event of each stretch -/

theorem gap_reset : gap s = .rst (resetTaken cs s) := by
  obtain ⟨hin, hat, hrst⟩ := h
  simp [gap, gapFrom, hin, hat, hrst, resetTaken]

theorem readByte_reset (r : Nat) : readByte r s = .rst (resetTaken cs s) := by
  rw [readByte, gap_reset h, Flow.bind_rst]

theorem emit_reset (e : Event) : emit e s = .rst (resetTaken cs s) := by
  rw [emit, gap_reset h, Flow.bind_rst]

theorem startConversion_reset (b : Byte) : startConversion b s = .rst (resetTaken cs s) := by
  have hgap := gap_reset (s := { s with seq := .issue b }) h
  rw [startConversion, hgap, Flow.bind_rst]
  rfl

theorem load_reset (hv : s.calValid = false) : load s = .rst (resetTaken cs s) := by
  have hread (r : Nat) := readByte_reset (s := begin s) h r
  have hcoefs : loadCoefs coefOrder (begin s) = .rst (resetTaken cs (begin s)) := by
    simp [coefOrder, loadCoefs, loadCoef, hread]
  rw [load, if_neg (by simp [hv]), hcoefs]
  rfl

/-! ### The operations -/

theorem execLoadCal_reset (hv : s.calValid = false) : exec .loadCal s = .next (resetTaken cs s) := by
  rw [exec, execLoadCal, load_reset h hv, outcome_rst, conclude_rst]

theorem execInitSync_reset (hv : s.calValid = false) (hm : s.mode ≠ modeAsync) :
    exec .initSync s = .next (resetTaken cs s) := by
  rw [exec, execInitSync, initSync, if_neg hm, load_reset h hv, Flow.bind_rst, outcome_rst, conclude_rst]

/-- Before the load where there is one, else before the start command. -/
theorem execInitAsync_reset (hm : s.mode ≠ modeSync) : exec .initAsync s = .next (resetTaken cs s) := by
  rw [exec, execInitAsync, initAsync, if_neg hm]
  cases hv : s.calValid with
  | false => rw [load_reset h hv, Flow.bind_rst, outcome_rst, conclude_rst]
  | true =>
    have hload : load s = .val () s := if_pos hv
    have hstart := startConversion_reset (s := enterAsync s) h s.cfg.cmdTemp
    rw [hload, Flow.bind_val, hstart, outcome_rst, conclude_rst]
    rfl

theorem syncReads_reset (b : Byte) (us : Nat) (reads : State → Flow Unit) :
    syncReads b us reads s = .rst (resetTaken cs s) := by
  rw [syncReads, startConversion_reset h, Flow.bind_rst]

theorem execReads_reset (hm : s.mode = modeSync) :
    exec .readUt s = .next (resetTaken cs s) ∧ exec .readUp s = .next (resetTaken cs s) := by
  rw [exec_readUt_sync hm, exec_readUp_sync hm, syncReads_reset h, syncReads_reset h, outcome_rst, conclude_rst]
  exact ⟨rfl, rfl⟩

theorem execCompensate_reset (hv : s.calValid = true) : exec .compensate s = .next (resetTaken cs s) := by
  have hgap := gap_reset (s := begin s) h
  rw [exec, execCompensate, compensate, if_neg (by simp [hv]), hgap, Flow.bind_rst, outcome_rst, conclude_rst]
  rfl

/-- Each stage starts with an event: a result read, or the Diag of an illegal ASTATE. -/
theorem stepStage_reset : stepStage s = .rst (resetTaken cs s) := by
  unfold stepStage
  split_ifs
  · rw [stageTemperature, readByte_reset h, Flow.bind_rst, Flow.recover_rst]
  · rw [stagePressure, readByte_reset h, Flow.bind_rst, Flow.recover_rst]
  · rw [stageInvalid, diag, emit_reset h, Flow.bind_rst]

theorem asyncStep_reset : asyncStep s = .next (resetTaken cs s) := by
  rw [asyncStep, stepStage_reset (s := startStep s) h, outcome_rst, endStep_rst]
  rfl

end

theorem step_reset {s : State} {c : Cycle} {cs : List Cycle} (hwf : s.cfg.wf = true) (hin : s.inputs = c :: cs)
    (hrst : c.rst = true) : step s = .next (resetTaken cs s) := by
  rw [step_eq_runCycle hwf hin, runCycle, if_pos hrst]
  rfl

/-! ### About the Wait event of READ_UP (R89, R164) -/

/-- A start command whose one cycle passes and whose transaction completes. -/
theorem startConversion_next_cycle {s : State} {c : Cycle} {cs : List Cycle} {rest : List Answer}
    (hin : s.inputs = c :: cs) (hrst : c.rst = false) (hadm : c.host.admitted = true) (hdone : c.seqDone = true)
    (hat : c.atOnce = 0) (hans : s.answers = .ack :: rest) (b : Byte) :
    ∃ t, startConversion b s = .val () t ∧ t.inputs = cs ∧ t.cfg = s.cfg ∧ t.answers = rest
      ∧ t.history = s.history ++ [startEvent s.cfg b true] := by
  obtain ⟨u, hu⟩ : ∃ u, u = busyTick c { s with seq := .issue b, inputs := cs } := ⟨_, rfl⟩
  have htick : Interleaved { s with seq := .issue b } u := hu ▸ busyTick_interleaved rfl hin
  have hgap : gap { s with seq := .issue b } = .val () u := by
    simp [gap, gapFrom, hin, hrst, hadm, hdone, hat, hu]
  have hcfg : u.cfg = s.cfg := by rw [htick.same]; rfl
  have hval : startConversion b s = .val () { u with
      history := u.history ++ [startEvent u.cfg b true], answers := rest, draws := u.draws + 1, seq := .running } := by
    rw [startConversion, hgap, Flow.bind_val, writeStart_ack (by rw [htick.same]; exact hans)]
  refine ⟨_, hval, by rw [hu, busyTick_inputs], hcfg, rfl, ?_⟩
  rw [hcfg, htick.history_eq]

theorem waitTicks_pos {cfg : Config} {us : Nat} (hclk : 0 < cfg.clkHz) (hus : 0 < us) : 0 < waitTicks cfg us := by
  have hload := (waitTicks_bounds cfg us).1
  have hprod := Nat.mul_pos hus hclk
  omega

theorem presWaitUs_pos (o : BitVec 2) : 0 < presWaitUs o := by
  revert o
  decide

/-- A reset in the next cycle abandons the wait, before or after its event. -/
theorem waitFor_reset {t : State} {d : Cycle} {ds : List Cycle} {us : Nat} (hin : t.inputs = d :: ds)
    (hrst : d.rst = true) (hticks : 0 < waitTicks t.cfg us) :
    ∃ v, waitFor us t = .rst (doReset v) ∧ v.answers = t.answers
      ∧ v.history = t.history ++ if d.atOnce = 0 then [] else [.wait us] := by
  by_cases hat : d.atOnce = 0
  · refine ⟨{ t with inputs := ds }, ?_, rfl, by rw [if_pos hat, List.append_nil]⟩
    rw [waitFor, gap_reset ⟨hin, hat, hrst⟩, Flow.bind_rst]
    rfl
  · obtain ⟨n, hn⟩ := Nat.exists_eq_succ_of_ne_zero hticks.ne'
    have hgap : gap t = .val () { t with inputs := { d with atOnce := d.atOnce - 1 } :: ds } := by
      simp [gap, gapFrom, hin, Nat.pos_of_ne_zero hat]
    refine ⟨{ pushEvent (.wait us) t with inputs := ds }, ?_, rfl, by rw [if_neg hat]; rfl⟩
    rw [waitFor, hgap, Flow.bind_val, runWait, hn, countDown, if_pos hrst]
    rfl

/-- Settles O11: reset comes first in a cycle, and nothing of an operation happens after it. -/
theorem resetOverridesAndAbandons : Obligations.ResetOverridesAndAbandons := by
  intro s c cs hin
  refine ⟨fun hrst hwf => step_reset hwf hin hrst, fun hrst hat => ?_,
    fun d ds rest hrst hadm hdone hat hcs hdrst hm hans hclk => ?_⟩
  · have h : ResetFirst s c cs := ⟨hin, hat, hrst⟩
    exact ⟨execLoadCal_reset h, execInitSync_reset h, execInitAsync_reset h, execReads_reset h, execCompensate_reset h,
      asyncStep_reset h⟩
  · obtain ⟨t, hstart, htin, hcfg, hrest, hhist⟩ := startConversion_next_cycle hin hrst hadm hdone hat hans
      (presByte s.cfg s.oss)
    obtain ⟨v, hwait, hvans, hvhist⟩ := waitFor_reset (us := presWaitUs s.oss) (htin.trans hcs) hdrst
      (waitTicks_pos (by rw [hcfg]; exact hclk) (presWaitUs_pos s.oss))
    have hexec : exec .readUp s = .next (doReset v) := by
      rw [exec_readUp_sync hm, syncReads, hstart, Flow.bind_val, hwait, Flow.bind_rst, outcome_rst, conclude_rst]
    exact ⟨_, hexec, rfl, rfl, rfl, rfl, hvans.trans hrest, hvhist.trans (congrArg (· ++ _) hhist)⟩

end Sys2Proof.Machine
end

section
/-! SUPPORT, and the obligations settled with it: the coefficient that the compensation does not read (R82), and the host's
conversions whose results are exact (R119 to R124). -/
namespace Sys2Proof.Machine

/-! ### Coefficient MB (R82) -/

theorem coef_set_mb (cal : Vector Half 11) (x : Half) {k : Fin 11} (h : k ≠ 8) : coef (cal.set 8 x) k = coef cal k := by
  have hne : 8 ≠ k.val := fun h' => h (Fin.ext h'.symm)
  rw [coef, coef, Fin.getElem_fin, Fin.getElem_fin, Vector.getElem_set_ne _ _ hne]

/-- Settles O45: the steps of the transform read the other ten coefficients. -/
theorem compensationIgnoresMb : Obligations.CompensationIgnoresMb := by
  intro cal x ut up oss
  have hb6 (b6 : Word) : compX3a (cal.set 8 x) b6 = compX3a cal b6 ∧ compX3b (cal.set 8 x) b6 = compX3b cal b6 := by
    simp [compX3a, compX3b, coef_set_mb cal x]
  have hx1 : compX1 (cal.set 8 x) ut = compX1 cal ut := by simp [compX1, coef_set_mb cal x]
  have hdiv : compDivisor (cal.set 8 x) ut = compDivisor cal ut := by simp [compDivisor, hx1, coef_set_mb cal x]
  have hb5 : compB5 (cal.set 8 x) ut = compB5 cal ut := by simp [compB5, compX2, hx1, hdiv, coef_set_mb cal x]
  have hb4 (b6 : Word) : compB4 (cal.set 8 x) b6 = compB4 cal b6 := by simp [compB4, hb6, coef_set_mb cal x]
  have hb7 (b6 : Word) : compB7 (cal.set 8 x) b6 up oss = compB7 cal b6 up oss := by
    simp [compB7, compB3, hb6, coef_set_mb cal x]
  simp [comp, hdiv, hb5, hb4, hb7]

/-! ### The host's conversions -/

/-! The results on these operands, computed in each format. -/

theorem pressureHPa_seaLevel (f : FloatFormat) : pressureHPa f 101325#32 = .num false (101325 / 100) := by
  cases f <;> decide +kernel

/-- 1/10 is in neither format, but the product with its rounded value rounds to 15. -/
theorem tempC_fifteen (f : FloatFormat) : tempC f 150#32 = .num false 15 := by
  cases f <;> decide +kernel

theorem seaLevel_ratio (f : FloatFormat) : divF f (.num false (101325 / 100)) (fl f (101325 / 100)) = .num false 1 := by
  cases f <;> decide +kernel

theorem fl_one (f : FloatFormat) : fl f 1 = .num false 1 := by
  cases f <;> decide +kernel

theorem fl_metres (f : FloatFormat) : fl f 44330 = .num false 44330 := by
  cases f <;> decide +kernel

/-! The arithmetic of zeros and ones. -/

/-- R119: pow(1.0, y) = 1.0. -/
theorem powF_one (f : FloatFormat) (y : FloatVal) : powF f (.num false 1) y = .num false 1 := if_pos rfl

theorem roundTo_zero (f : FloatFormat) (neg : Bool) : roundTo f neg 0 = .num neg 0 := if_pos rfl

/-- An exact zero of two signs is positive. -/
theorem subF_self (f : FloatFormat) (a : Rat) : subF f (.num false a) (.num false a) = .num false 0 :=
  if_pos (add_neg_cancel a)

theorem mulF_zero_left (f : FloatFormat) (n m : Bool) (b : Rat) : mulF f (.num n 0) (.num m b) = .num (n != m) 0 := by
  rw [mulF, Rat.zero_mul, roundTo_zero]

theorem mulF_zero_right (f : FloatFormat) (n m : Bool) (a : Rat) : mulF f (.num n a) (.num m 0) = .num (n != m) 0 := by
  rw [mulF, Rat.mul_zero, roundTo_zero]

/-- The ratio is 1, and so is every power of it. -/
theorem altitudeM_seaLevel (f : FloatFormat) : altitudeM f (.num false (101325 / 100)) = .num false 0 := by
  rw [altitudeM, seaLevel_ratio, powF_one, fl_one, subF_self, fl_metres, mulF_zero_right]
  rfl

/-- Settles O60: 1013.25 hPa is exact, and the altitude there is a product with zero. -/
theorem seaLevelAltitudeIsZero : Obligations.SeaLevelAltitudeIsZero := by
  intro f neg ftPerM
  rw [pressureHPa_seaLevel, altitudeFt, altitudeM_seaLevel, mulF_zero_left, Bool.false_bne]
  exact ⟨rfl, rfl, rfl, tempC_fifteen f⟩

end Sys2Proof.Machine
end
